-- ==== Sys2Proof/Word.lean ====
section
/-! DEFINITION. The words of the block: bytes, command words, request words, time counts (00_scope.md R8, R11). -/

namespace Sys2Proof

/-- One byte (`u8`, R11). -/
abbrev Byte := BitVec 8

/-- A 16-bit sensor command word (R51). -/
abbrev CmdWord := BitVec 16

/-- A 16-bit field taken from the bus (R42). -/
abbrev Field := BitVec 16

/-- A 19-bit host request word (R55). -/
abbrev ReqWord := BitVec 19

/-- A 7-bit bus address (R23, R34). -/
abbrev BusAddr := BitVec 7

/-- A sample of the 32-bit millisecond time input (R137). -/
abbrev Time := BitVec 32

/-- The six bytes of the frame buffer `FR[0..5]` (R26, R36). -/
abbrev Frame := Vector Byte 6

end Sys2Proof
end

