-- ==== Sys2Proof/Config.lean ====
section
/-! DEFINITION. The construction parameters P1 to P13 of the block (00_scope.md R7). A configuration is plain data: the
machine carries it in its state and no step changes it, so that a statement about every state is a statement about every
configuration (log entry 1). The example configuration EX stands in `Machine/Example.lean`. -/

namespace Sys2Proof

/-- The parameters of R7. The fixed sizes of R8 are types, never parameters. -/
structure Config where
  /-- P1: the bus address given at creation. -/
  addr : BusAddr
  /-- P2: the six continuous-acquisition words. The index is a naming convention only (R65). -/
  contSet : Vector CmdWord 6
  /-- P3. -/
  cmdFetch : CmdWord
  /-- P4. -/
  cmdStop : CmdWord
  /-- P5. -/
  cmdHeaterEn : CmdWord
  /-- P6. -/
  cmdHeaterDis : CmdWord
  /-- P7. -/
  cmdStatusRead : CmdWord
  /-- P8. -/
  cmdStatusClear : CmdWord
  /-- P9: the stretch-enabling high byte. -/
  stretchMsb : Byte
  /-- P10: the CRC lookup table. R76 says that the table and the initial value a model is given must satisfy the detection
  property; nothing in the model asks for it (DESIGN CHOICE, log entry 21). -/
  crcTable : Vector Byte 256
  /-- P11: the CRC's initial value; see `crcTable` on R76. -/
  crcInit : Byte
  /-- P12: the settle window, in units of the time input. -/
  settleMs : Time
  /-- P13: the byte that marks a value as not trustworthy. -/
  sentinel : Byte
deriving DecidableEq, Repr

/-- The twelve command words of R10, in the order R10 lists them. -/
def Config.words (cfg : Config) : List CmdWord :=
  [cfg.contSet[0], cfg.contSet[1], cfg.contSet[2], cfg.contSet[3], cfg.contSet[4], cfg.contSet[5],
    cfg.cmdFetch, cfg.cmdStop, cfg.cmdHeaterEn, cfg.cmdHeaterDis, cfg.cmdStatusRead, cfg.cmdStatusClear]

end Sys2Proof
end

