-- ==== Sys2Proof/Machine/Flags.lean ====
section
/-! DEFINITION. The code sets of the block. It has no condition flags (10_state.md R29): the transport status and the
validity classification stand in their place. Their codes, and the codes of the session registers, are here
(30_encoding.md R60, R61, R62). -/

namespace Sys2Proof.Machine

/-- `MODE`, the acquisition mode (R19). -/
inductive Mode where
  | idle
  | continuous
deriving DecidableEq, Repr

/-- R62: Idle = 0, Continuous = 1. -/
def Mode.code : Mode → BitVec 1
  | .idle => 0
  | .continuous => 1

/-- `STRETCH`, the clock-stretch preference (R20). -/
inductive Stretch where
  | noStretch
  | stretch
  /-- The "unknown/disabled-forever" marker; no rule writes it (R20). -/
  | unknown
  /-- The reserved value 3, which R110 reads as Unknown. -/
  | reserved
deriving DecidableEq, Repr

/-- R62: NoStretch = 0, Stretch = 1, Unknown = 2, and 3 is reserved. -/
def Stretch.code : Stretch → BitVec 2
  | .noStretch => 0
  | .stretch => 1
  | .unknown => 2
  | .reserved => 3

/-- The outcome of one bus write (R60). -/
inductive TransportStatus where
  | success
  | dataTooLong
  | addressNack
  | dataNack
  | otherError
  | timeout
deriving DecidableEq, Repr

/-- The codes of R60. -/
def TransportStatus.code : TransportStatus → BitVec 3
  | .success => 0
  | .dataTooLong => 1
  | .addressNack => 2
  | .dataNack => 3
  | .otherError => 4
  | .timeout => 5

/-- The status a 3-bit transport answer stands for; 6 and 7 stand for none (R60, R39; log entry 16). -/
def TransportStatus.ofCode (c : BitVec 3) : Option TransportStatus :=
  match c.toNat with
  | 0 => some .success
  | 1 => some .dataTooLong
  | 2 => some .addressNack
  | 3 => some .dataNack
  | 4 => some .otherError
  | 5 => some .timeout
  | _ => none

/-- `CLASS`, the validity classification of a frame (R28, R61). -/
inductive Classification where
  | allValid
  | onlyFirst
  | onlySecond
  | noneValid
deriving DecidableEq, Repr

/-- The codes of R61. -/
def Classification.code : Classification → BitVec 2
  | .allValid => 0
  | .onlyFirst => 1
  | .onlySecond => 2
  | .noneValid => 3

/-- The classification a 2-bit code stands for (R61). -/
def Classification.ofCode (c : BitVec 2) : Classification :=
  match c.toNat with
  | 0 => .allValid
  | 1 => .onlyFirst
  | 2 => .onlySecond
  | _ => .noneValid

/-- The class of a command word (R52). -/
inductive CmdClass where
  | cont
  | fetch
  | stop
  | side
  | other
deriving DecidableEq, Repr

end Sys2Proof.Machine
end

