-- ==== Sys2Proof/Machine/Crc.lean ====
section
/-! DEFINITION. The CRC engine (40_crc_engine.md): checksum, field checks, validity classification. Pure functions of the
configuration and the frame buffer. -/

namespace Sys2Proof.Machine

/-- One update of the CRC: `crc <- CRC_TABLE[crc ⊕ b]` (R69; the spec marks this step as general knowledge, log entry 17). -/
def crcUpdate (cfg : Config) (crc b : Byte) : Byte := cfg.crcTable[(crc ^^^ b).toNat]

/-- `checksum(seq)`: the table-driven CRC-8 over a list of bytes in list order (R69). -/
def checksum (cfg : Config) (seq : List Byte) : Byte := seq.foldl (crcUpdate cfg) cfg.crcInit

/-- `first_ok(FR)` (R71), over the field's bytes from the higher index to the lower (R44). -/
def firstOk (cfg : Config) (fr : Frame) : Bool := checksum cfg [fr[2], fr[1]] == fr[0]

/-- `second_ok(FR)` (R71), of measurement frames only. -/
def secondOk (cfg : Config) (fr : Frame) : Bool := checksum cfg [fr[5], fr[4]] == fr[3]

/-- `validate_meas(FR)` (R74): from NoneValid, subtract 1 if the second field is valid, then 2 if the first is (R73). -/
def validateMeas (cfg : Config) (fr : Frame) : Classification :=
  let c := 3#2
  let c := if secondOk cfg fr then c - 1#2 else c
  let c := if firstOk cfg fr then c - 2#2 else c
  Classification.ofCode c

/-- `validate_reg(FR)` (R75): the second-field check is skipped. -/
def validateReg (cfg : Config) (fr : Frame) : Classification :=
  let c := 3#2
  let c := if firstOk cfg fr then c - 2#2 else c
  Classification.ofCode c

end Sys2Proof.Machine
end

