-- ==== Sys2Proof/Machine/FrameBuffer.lean ====
section
/-! DEFINITION. The frame buffer: the sentinel fill, the placement of received bytes (20_memory.md R41), the fields (R42)
and the invalidation mask (41_invalidation_mask.md). -/

namespace Sys2Proof.Machine

/-- `FR[j] <- SENTINEL` for `first ≤ j < past`. -/
def fillSentinel (cfg : Config) (first past : Nat) (fr : Frame) : Frame :=
  Vector.ofFn fun j => if first ≤ j.val ∧ j.val < past then cfg.sentinel else fr[j]

/-- `FR[j] <- rx[j]` for each received byte; the other bytes keep what they hold (R41). -/
def place (rx : List Byte) (fr : Frame) : Frame :=
  Vector.ofFn fun j => rx.getD j.val fr[j]

/-- The first field, or the register: `{FR[1], FR[2]}` (R42). -/
def field1 (fr : Frame) : Field := fr[1] ++ fr[2]

/-- The second field: `{FR[4], FR[5]}` (R42). -/
def field2 (fr : Frame) : Field := fr[4] ++ fr[5]

/-- `mask(FR, len, CLASS)` (R78). -/
def mask (cfg : Config) (len : Nat) (c : Classification) (fr : Frame) : Frame :=
  match c with
  | .noneValid => fillSentinel cfg 0 len fr
  | .onlySecond => fillSentinel cfg 0 3 fr
  | .onlyFirst => if 3 < len then fillSentinel cfg 3 6 fr else fr
  | .allValid => fr

end Sys2Proof.Machine
end

