-- ==== Sys2Proof/Machine/Operands.lean ====
section
/-! DEFINITION. The request codec and the operand forms: the two bytes of a command word, the predicates on command
words, the stretch preference a word selects, and its class (42_request_codec.md R84 to R89, 30_encoding.md R53, R54). All
are pure and total. -/

namespace Sys2Proof.Machine

/-- `hi(c) = c[15:8]` (R84). -/
def hi (c : CmdWord) : Byte := c.extractLsb' 8 8

/-- `lo(c) = c[7:0]` (R85). -/
def lo (c : CmdWord) : Byte := c.extractLsb' 0 8

/-- `is_cont(c)`: exact membership in `CONT_SET` (R86). -/
def isCont (cfg : Config) (c : CmdWord) : Bool :=
  c == cfg.contSet[0] || c == cfg.contSet[1] || c == cfg.contSet[2] ||
    c == cfg.contSet[3] || c == cfg.contSet[4] || c == cfg.contSet[5]

/-- `is_fetch(c)` (R87). -/
def isFetch (cfg : Config) (c : CmdWord) : Bool := c == cfg.cmdFetch

/-- `is_side(c)` (R88). -/
def isSide (cfg : Config) (c : CmdWord) : Bool :=
  c == cfg.cmdHeaterEn || c == cfg.cmdHeaterDis || c == cfg.cmdStatusRead || c == cfg.cmdStatusClear

/-- `is_status_read(c)` (R89). -/
def isStatusRead (cfg : Config) (c : CmdWord) : Bool := c == cfg.cmdStatusRead

/-- `stretch_of(c)`: Stretch when the high byte is `STRETCH_MSB`, NoStretch otherwise (R53). -/
def stretchOf (cfg : Config) (c : CmdWord) : Stretch :=
  if hi c = cfg.stretchMsb then .stretch else .noStretch

/-- `class_of(c)`, a naming aid that no rule reads (R54). -/
def classOf (cfg : Config) (c : CmdWord) : CmdClass :=
  if isCont cfg c then .cont
  else if isFetch cfg c then .fetch
  else if c = cfg.cmdStop then .stop
  else if isSide cfg c then .side
  else .other

end Sys2Proof.Machine
end

