-- ==== Sys2Proof/Machine/Example.lean ====
section
/-! DEFINITION. The example configuration EX of 00_scope.md R9. Its values but the address 0x44, the settle window and the
sentinel are the spec's general knowledge (PRESUMED, log entry 1); no meaning reads them: the machine reads the
configuration its state carries. -/

namespace Sys2Proof.Machine

/-- One bit step of the CRC-8 with polynomial 0x31, most significant bit first (R9). -/
def crcBitStep (x : Byte) : Byte := if x.msb then (x <<< 1) ^^^ 0x31#8 else x <<< 1

/-- `CRC_TABLE_EX[i]`: the CRC-8 of the single byte `i`, initial value 0 (R9). -/
def crcEntry (i : Byte) : Byte :=
  crcBitStep (crcBitStep (crcBitStep (crcBitStep (crcBitStep (crcBitStep (crcBitStep (crcBitStep i)))))))

/-- The configuration EX (R7, R9). -/
def configEx : Config where
  addr := 0x44#7
  contSet := #v[0x2032#16, 0x2130#16, 0x2236#16, 0x2334#16, 0x2737#16, 0x2B32#16]
  cmdFetch := 0xE000#16
  cmdStop := 0x3093#16
  cmdHeaterEn := 0x306D#16
  cmdHeaterDis := 0x3066#16
  cmdStatusRead := 0xF32D#16
  cmdStatusClear := 0x3041#16
  stretchMsb := 0x2C#8
  crcTable := Vector.ofFn fun i => crcEntry (BitVec.ofFin i)
  crcInit := 0xFF#8
  settleMs := 16#32
  sentinel := 0xFF#8

end Sys2Proof.Machine
end

