-- ==== Sys2Proof/Machine/State.lean ====
section
/-! DEFINITION. The state of the block (10_state.md), the reasons a step can stop (60_exceptions.md R142) and the state
after reset (R33, R143). -/

namespace Sys2Proof.Machine

/-- Who runs a dispatch: the host's own request, or the read it is nested in (R24, R91). -/
inductive Caller where
  | dispatch
  | readMeas
  | readStatus
deriving DecidableEq, Repr

/-- The five phases of a dispatch (R24). -/
inductive DspPhase where
  | stop
  | settle
  | cmd
  | resume
  | direct
deriving DecidableEq, Repr

/-- `SEQ`, the sequencer phase (R24): exactly the pairs (op, phase) the pseudocode writes, so that no other pair can be
built (log entry 7). `Seq.op` and `Seq.phase` (Ops.lean) give the pair. -/
inductive Seq where
  /-- (None, READY). -/
  | ready
  /-- (op, DSP_…). -/
  | dsp (op : Caller) (phase : DspPhase)
  /-- (ReadMeas, RM_FETCH). -/
  | rmFetch
  /-- (ReadMeas, RM_READ). -/
  | rmRead
  /-- (ReadMeas, RM_DONE). -/
  | rmDone
  /-- (ReadStatus, RS_DISPATCH). -/
  | rsDispatch
  /-- (ReadStatus, RS_READ). -/
  | rsRead
  /-- (ReadStatus, RS_DONE). -/
  | rsDone
deriving DecidableEq, Repr

/-- The first component of `SEQ` (R24). -/
inductive SeqOp where
  | none
  | dispatch
  | readMeas
  | readStatus
deriving DecidableEq, Repr

/-- The second component of `SEQ` (R24). -/
inductive SeqPhase where
  | ready
  | dspStop
  | dspSettle
  | dspCmd
  | dspResume
  | dspDirect
  | rmFetch
  | rmRead
  | rmDone
  | rsDispatch
  | rsRead
  | rsDone
deriving DecidableEq, Repr

/-- The local values of the pseudocode of R91, R109 and R116 that a hold inside a request keeps (the model's own
fields, log entry 6). -/
structure Work where
  /-- `c`, the command word of the running dispatch or status read. -/
  cmd : CmdWord
  /-- `convert`, the flag of the running measurement read. -/
  convert : Bool
  /-- `s1`, the status of `send(c)`, while the resume is on the bus. -/
  sent : TransportStatus
  /-- The release flag of the measurement read's bus read. -/
  release : Bool
  /-- `rx`, the bytes received. -/
  rx : List Byte
  /-- Whether `T0` has been sampled in the running settle window. -/
  t0Taken : Bool
deriving DecidableEq, Repr

/-- The working values when no request is in progress (R18; DESIGN CHOICE, log entry 12). -/
def Work.clear : Work where
  cmd := 0#16
  convert := false
  sent := .success
  release := false
  rx := []
  t0Taken := false

/-- A response word: its width depends on the operation (R56). -/
inductive ResponseWord where
  /-- `DISPATCH`: the 3-bit status. -/
  | status (w : BitVec 3)
  /-- `READ_MEAS`: {humidity, temperature}, humidity in bits 31:16. -/
  | meas (w : BitVec 32)
  /-- `READ_STATUS`: the 16-bit value. -/
  | value (w : BitVec 16)
deriving DecidableEq, Repr

/-- One completed event of a port (R15, R30). -/
inductive Event where
  /-- `BusWrite(addr, [b0, b1])` and the status it returned (R37). -/
  | write (addr : BusAddr) (b0 b1 : Byte) (st : TransportStatus)
  /-- `BusRead(addr, n, release)` and the bytes it returned (R38). -/
  | read (addr : BusAddr) (n : Nat) (release : Bool) (rx : List Byte)
  /-- `Now()` and the value it gave (R14). -/
  | now (t : Time)
  /-- `respond(v)` (R14, R56). -/
  | response (w : ResponseWord)
deriving DecidableEq, Repr

/-- The state of the block: its registers, its construction parameters and its ports, as plain data. -/
structure State where
  /-- The construction parameters (R7); no step changes them (log entry 1). -/
  cfg : Config
  /-- `MODE` (R19). -/
  mode : Mode
  /-- `STRETCH` (R20). -/
  stretch : Stretch
  /-- `LAST_CONT` (R21). -/
  lastCont : CmdWord
  /-- Whether `LAST_CONT` has been written since reset (R22, log entry 8). -/
  lastContWritten : Bool
  /-- `ADDR` (R23). -/
  addr : BusAddr
  /-- `SEQ` (R24). -/
  seq : Seq
  /-- `T0` (R25). -/
  t0 : Time
  /-- `FR[0..5]` (R26). -/
  frame : Frame
  /-- `CLASS` (R28). -/
  cls : Classification
  /-- The working values of the request in progress (log entry 6). -/
  work : Work
  /-- The host request port: the words presented and not yet accepted, oldest first (R30, R31; log entry 2). -/
  requests : List ReqWord
  /-- The status codes the transport answers to the next bus writes, oldest first (R37; log entry 3). -/
  statusIn : List (BitVec 3)
  /-- The bytes the transport answers to the next bus reads, oldest first (R38; log entry 3). -/
  bytesIn : List (List Byte)
  /-- The values of the next samples of the time input, oldest first (R14, R155; log entry 3). -/
  timeIn : List Time
  /-- The completed events of the ports, oldest first (R15; log entry 5). -/
  log : List Event
deriving DecidableEq, Repr

/-- Why the machine stops with a fault. -/
inductive Fault where
  /-- `fault(LastContUnwritten)` (R22, R142): the resume of a dispatch reads `LAST_CONT` before any write. Raised by the
  resume phase only, where the spec says that a model must fault (R22; D5, I4). No run from reset reaches it.
  Safe: it errs toward unprovable. -/
  | lastContUnwritten
deriving DecidableEq, Repr

/-- Why the machine gives no meaning. -/
inductive Refusal where
  /-- An instruction that has no meaning in the model yet. Raised by an arm of `exec`; safe. No arm raises it. -/
  | notModelled (mnemonic : String)
  /-- `refuse(ReservedOp)` (R59, R142): a request with `op = 11`. Raised at the request port; safe. -/
  | reservedOp
  /-- `refuse(ReservedBits)` (R59, R142): a request with a non-zero unused field. Raised at the request port; safe. -/
  | reservedBits
  /-- `refuse(TransportContract)` (R39, R142): a status outside 0 to 5, or more bytes than asked. Raised by a bus write or a
  bus read; safe. -/
  | transportContract
deriving DecidableEq, Repr

/-- The state after construction with a configuration (R33, R143). The spec leaves `LAST_CONT`, `T0`, `FR` and `CLASS`
without a value: the zeros here are DESIGN CHOICES (log entries 8 to 11), and so are the cleared working values (12). The
ports are empty: the block waits for the first host request. Any configuration is taken, also one that violates WF1 or the
detection property of R76 (DESIGN CHOICE, log entries 18 and 21). -/
def State.resetOf (cfg : Config) : State where
  cfg := cfg
  mode := .idle
  stretch := .noStretch
  lastCont := 0#16
  lastContWritten := false
  addr := cfg.addr
  seq := .ready
  t0 := 0#32
  frame := #v[0#8, 0#8, 0#8, 0#8, 0#8, 0#8]
  cls := .allValid
  work := Work.clear
  requests := []
  statusIn := []
  bytesIn := []
  timeIn := []
  log := []

/-- The state after reset, constructed with the example configuration EX (DESIGN CHOICE, log entry 1). -/
def State.reset : State := State.resetOf configEx

end Sys2Proof.Machine
end

