-- ==== Sys2Proof/Machine/Ops.lean ====
section
/-! DEFINITION. The named operations over the state: one update per register, the primitives of the three ports
(00_scope.md R13, R14; 20_memory.md R37 to R39), acceptance and response at the request port (10_state.md R31), the sends of
the request codec (R90), and what the environment may do to the ports (R30).

The block takes no exception and returns from none (60_exceptions.md R128, R132, R133), so no operation here takes one. -/

namespace Sys2Proof.Machine

/-- What a step of the machine answers. -/
abbrev Out := Host.Outcome State Fault Refusal

/-! ## One update per piece of state -/

/-- `MODE <- m`. -/
def State.setMode (s : State) (m : Mode) : State := { s with mode := m }

/-- `STRETCH <- x`. -/
def State.setStretch (s : State) (x : Stretch) : State := { s with stretch := x }

/-- `LAST_CONT <- c`; the register is written from then on (R22). -/
def State.setLastCont (s : State) (c : CmdWord) : State := { s with lastCont := c, lastContWritten := true }

/-- `SEQ <- q`. -/
def State.goto (s : State) (q : Seq) : State := { s with seq := q }

/-- `T0 <- t`. -/
def State.setT0 (s : State) (t : Time) : State := { s with t0 := t }

/-- The frame buffer as a whole. -/
def State.setFrame (s : State) (f : Frame) : State := { s with frame := f }

/-- `CLASS <- c`. -/
def State.setCls (s : State) (c : Classification) : State := { s with cls := c }

/-- The working values of the request in progress. -/
def State.setWork (s : State) (w : Work) : State := { s with work := w }

/-- The words waiting at the request port. -/
def State.setRequests (s : State) (l : List ReqWord) : State := { s with requests := l }

/-- The transport's answers to come, for writes. -/
def State.setStatusIn (s : State) (l : List (BitVec 3)) : State := { s with statusIn := l }

/-- The transport's answers to come, for reads. -/
def State.setBytesIn (s : State) (l : List (List Byte)) : State := { s with bytesIn := l }

/-- The time input's samples to come. -/
def State.setTimeIn (s : State) (l : List Time) : State := { s with timeIn := l }

/-- Events completed at the ports, in order. -/
def State.emit (s : State) (es : List Event) : State := { s with log := s.log ++ es }

/-! ## The sequencer phase as the pair of R24 -/

/-- The `op` of a dispatch's caller (R24). -/
def Caller.op : Caller → SeqOp
  | .dispatch => .dispatch
  | .readMeas => .readMeas
  | .readStatus => .readStatus

/-- `DSP_STOP` to `DSP_DIRECT` (R24). -/
def DspPhase.phase : DspPhase → SeqPhase
  | .stop => .dspStop
  | .settle => .dspSettle
  | .cmd => .dspCmd
  | .resume => .dspResume
  | .direct => .dspDirect

/-- The `op` of `SEQ` (R24). -/
def Seq.op : Seq → SeqOp
  | .ready => .none
  | .dsp c _ => c.op
  | .rmFetch => .readMeas
  | .rmRead => .readMeas
  | .rmDone => .readMeas
  | .rsDispatch => .readStatus
  | .rsRead => .readStatus
  | .rsDone => .readStatus

/-- The `phase` of `SEQ` (R24). -/
def Seq.phase : Seq → SeqPhase
  | .ready => .ready
  | .dsp _ p => p.phase
  | .rmFetch => .rmFetch
  | .rmRead => .rmRead
  | .rmDone => .rmDone
  | .rsDispatch => .rsDispatch
  | .rsRead => .rsRead
  | .rsDone => .rsDone

/-! ## The bus transport port and the time input -/

/-- What the environment answers to one event of the block. -/
inductive Answer (α : Type) where
  /-- No answer yet: the block holds in its phase (R14, R39). -/
  | held
  /-- An answer outside the transport's contract (R39). -/
  | outside
  /-- The answer, and the state with the event completed. -/
  | got (a : α) (s : State)

/-- `BusWrite(ADDR, [b0, b1])` (R13, R37): the transport answers with one of the six statuses (R39, R60). -/
def busWrite (b0 b1 : Byte) (s : State) : Answer TransportStatus :=
  match s.statusIn with
  | [] => .held
  | code :: later =>
    match TransportStatus.ofCode code with
    | none => .outside
    | some st => .got st ((s.setStatusIn later).emit [.write s.addr b0 b1 st])

/-- `BusRead(ADDR, n, release)` (R13, R38): the transport answers with at most `n` bytes (R39). -/
def busRead (n : Nat) (release : Bool) (s : State) : Answer (List Byte) :=
  match s.bytesIn with
  | [] => .held
  | rx :: later =>
    if rx.length ≤ n then .got rx ((s.setBytesIn later).emit [.read s.addr n release rx]) else .outside

/-- `Now()` (R14): one sample of the time input, whatever its value (R155). -/
def sampleNow (s : State) : Answer Time :=
  match s.timeIn with
  | [] => .held
  | t :: later => .got t ((s.setTimeIn later).emit [.now t])

/-- Wait for an answer and go on with it: a hold is a next state in which nothing has moved (R14, R142), an answer
outside the contract is refused (R39). -/
def Answer.andThen {α : Type} (a : Answer α) (s : State) (k : α → State → Out) : Out :=
  match a with
  | .held => .next s
  | .outside => .refused .transportContract
  | .got x s' => k x s'

/-- `send(c)` (R90): one write of the command's two bytes, most significant first (R43). -/
def send (c : CmdWord) (s : State) : Answer TransportStatus := busWrite (hi c) (lo c) s

/-- Reading `LAST_CONT`. R22 of 10_state.md states the stop: "a model that reads it before any write must
`fault(LastContUnwritten)`", and so do R14's `fault(reason)`, the outcome table of R142, D5 and I4. -/
def readLastCont (s : State) (k : CmdWord → Out) : Out :=
  if s.lastContWritten then k s.lastCont else .fault .lastContUnwritten

/-! ## The host request port -/

/-- Accepting a request (R31): the port is READY exactly when `SEQ = (None, READY)`. A request presented while the port is
not READY is not accepted, and waits (log entry 13). -/
def accept (s : State) (k : State → Out) : Out :=
  if s.seq = .ready then k (s.setRequests s.requests.tail) else .next s

/-- `respond(v)` (R14): the request is complete, and the sequencer is READY again. The working values go with the request
(R18, log entry 12). `T0`, `FR` and `CLASS` are left as the request left them: the spec does not keep them between requests
(R18, R29) and gives them no value there (DESIGN CHOICE, log entry 20). -/
def respond (w : ResponseWord) (s : State) : Out :=
  .next (((s.emit [.response w]).setWork Work.clear).goto .ready)

/-! ## What the environment may do to the ports -/

/-- The host presents request words (R31). -/
def State.present (s : State) (ws : List ReqWord) : State := s.setRequests (s.requests ++ ws)

/-- The transport and the time input supply further answers and samples (R37, R38, R155). -/
def State.offer (s : State) (codes : List (BitVec 3)) (reads : List (List Byte)) (times : List Time) : State :=
  ((s.setStatusIn (s.statusIn ++ codes)).setBytesIn (s.bytesIn ++ reads)).setTimeIn (s.timeIn ++ times)

end Sys2Proof.Machine
end

