-- ==== Sys2Proof/Machine/Assembler.lean ====
section
/-! DEFINITION. The reading assembler's phases after the bus path is chosen (44_reading_assembler.md): the bus read, the
placement, classification and mask of what it returned, the conversion, and the response. Each phase function is what the
block does from that phase on, so that a held request resumes by calling it again. -/

namespace Sys2Proof.Machine

/-- `conv_h(raw)` (R115). -/
def convH (raw : Field) : BitVec 16 := BitVec.ofNat 16 (100 * raw.toNat / 65535)

/-- `conv_t(raw)` in two's complement (R115). -/
def convT (raw : Field) : BitVec 16 := BitVec.ofInt 16 (((175 * raw.toNat / 65535 : Nat) : Int) - 45)

/-- `CLASS` of a measurement frame: `validate_meas` of the placed bytes, or the forced NoneValid (R111, R112). -/
def classifyMeas (cfg : Config) (rx : List Byte) (fr : Frame) : Classification :=
  if rx = [] then .noneValid else validateMeas cfg (place rx fr)

/-- `CLASS` of a register frame: `validate_reg` of the placed bytes, or the forced NoneValid (R119, R120). -/
def classifyReg (cfg : Config) (rx : List Byte) (fr : Frame) : Classification :=
  if rx = [] then .noneValid else validateReg cfg (place rx fr)

/-- The humidity of the response: converted exactly when asked for and CLASS is 0 or 1 (R113, R114). -/
def humidityOut (convert : Bool) (c : Classification) (h : Field) : BitVec 16 :=
  if convert ∧ (c = .allValid ∨ c = .onlyFirst) then convH h else h

/-- The temperature of the response: converted exactly when asked for and CLASS is 0 or 2 (R113, R114). -/
def temperatureOut (convert : Bool) (c : Classification) (t : Field) : BitVec 16 :=
  if convert ∧ (c = .allValid ∨ c = .onlySecond) then convT t else t

/-- `RM_DONE` (R109): place, classify, mask, assemble, convert, respond. -/
def rmDone (s : State) : Out :=
  let c := classifyMeas s.cfg s.work.rx s.frame
  let fr := mask s.cfg 6 c (place s.work.rx s.frame)
  let h := humidityOut s.work.convert c (field1 fr)
  let t := temperatureOut s.work.convert c (field2 fr)
  respond (.meas (h ++ t)) ((s.setFrame fr).setCls c)

/-- `RM_READ` (R109, R110): the 6-byte read. -/
def rmRead (s : State) : Out :=
  (busRead 6 s.work.release s).andThen s fun rx s' =>
    rmDone ((s'.setWork { s'.work with rx := rx }).goto .rmDone)

/-- Entering `RM_READ` with a release flag (R109). -/
def rmReadWith (release : Bool) (s : State) : Out :=
  rmRead ((s.setWork { s.work with release := release }).goto .rmRead)

/-- `RS_DONE` (R116): place, classify, mask with length 3, respond with the register field. -/
def rsDone (s : State) : Out :=
  let c := classifyReg s.cfg s.work.rx s.frame
  let fr := mask s.cfg 3 c (place s.work.rx s.frame)
  respond (.value (field1 fr)) ((s.setFrame fr).setCls c)

/-- `RS_READ` (R116, R118): the 3-byte read, which releases the bus. -/
def rsRead (s : State) : Out :=
  (busRead 3 true s).andThen s fun rx s' =>
    rsDone ((s'.setWork { s'.work with rx := rx }).goto .rsDone)

end Sys2Proof.Machine
end

