-- ==== Sys2Proof/Machine/Controller.lean ====
section
/-! DEFINITION. The mode/transport controller (43_mode_controller.md): dispatch, phase by phase. `op` is who runs the
dispatch: the host, or the read it is nested in (R91). Each phase function is what the block does from that phase on, so that
a held request resumes by calling it again. -/

namespace Sys2Proof.Machine

/-- A dispatch has returned a status (R100): the host gets it as the response (R91), a measurement read goes on with its
bus read on Success only (R110), a status read does so on Success of the status-read command only (R118). -/
def dispatchDone (op : Caller) (st : TransportStatus) (s : State) : Out :=
  match op with
  | .dispatch => respond (.status st.code) s
  | .readMeas => if st = .success then rmReadWith true s else rmDone (s.goto .rmDone)
  | .readStatus =>
    if st = .success ∧ isStatusRead s.cfg s.work.cmd then rsRead (s.goto .rsRead) else rsDone (s.goto .rsDone)

/-- `DSP_DIRECT`: the one send of cases 1 and 3 (R94, R99). -/
def dspDirect (op : Caller) (s : State) : Out :=
  (send s.work.cmd s).andThen s (dispatchDone op)

/-- `DSP_RESUME`: `LAST_CONT` is sent once, its status is not reported, and no register changes (R96). -/
def dspResume (op : Caller) (s : State) : Out :=
  readLastCont s fun c =>
    (send c s).andThen s fun _ s' => dispatchDone op s'.work.sent s'

/-- `DSP_CMD`: the command is sent; a side command is followed by the resume, any other leaves Continuous, both whatever
the status of the send (R96, R97). -/
def dspCmd (op : Caller) (s : State) : Out :=
  (send s.work.cmd s).andThen s fun s1 s' =>
    if isSide s'.cfg s'.work.cmd then
      dspResume op ((s'.setWork { s'.work with sent := s1 }).goto (.dsp op .resume))
    else
      dispatchDone op s1 (s'.setMode .idle)

/-- The hold condition of the settle window: `(now - T0) mod 2^32 ≥ SETTLE_MS` (R98). -/
def settled (cfg : Config) (t0 t : Time) : Bool := decide (cfg.settleMs ≤ t - t0)

/-- Sampling until the settle window is over (R98): the samples taken, and those left, or none where every sample
to come is too early. -/
def settleScan (cfg : Config) (t0 : Time) : List Time → List Time × Option (List Time)
  | [] => ([], none)
  | t :: later =>
    if settled cfg t0 t then ([t], some later)
    else (t :: (settleScan cfg t0 later).1, (settleScan cfg t0 later).2)

/-- `DSP_SETTLE` after `T0` (R98): at least one later sample is taken; the command follows when a sample is late enough,
and the block holds otherwise. -/
def dspHold (op : Caller) (s : State) : Out :=
  let r := settleScan s.cfg s.t0 s.timeIn
  let s' := s.emit (r.1.map .now)
  match r.2 with
  | none => .next (s'.setTimeIn [])
  | some later => dspCmd op ((s'.setTimeIn later).goto (.dsp op .cmd))

/-- `DSP_SETTLE` (R98): `T0` is the first sample on entering. -/
def dspSettle (op : Caller) (s : State) : Out :=
  if s.work.t0Taken then dspHold op s
  else (sampleNow s).andThen s fun t s' => dspHold op ((s'.setT0 t).setWork { s'.work with t0Taken := true })

/-- `DSP_STOP` (R95): the halt. A failed stop ends the dispatch with its status and changes nothing; after a successful one
the stretch preference is the new command's, and the settle window follows. -/
def dspStop (op : Caller) (s : State) : Out :=
  (send s.cfg.cmdStop s).andThen s fun s0 s' =>
    if s0 = .success then
      dspSettle op (((s'.setStretch (stretchOf s'.cfg s'.work.cmd)).setWork
        { s'.work with t0Taken := false }).goto (.dsp op .settle))
    else dispatchDone op s0 s'

/-- The three cases of R92. -/
inductive DispatchCase where
  /-- Idle with a continuous-family command. -/
  | enter
  /-- Continuous with a command that is neither continuous-family nor fetch. -/
  | halt
  /-- Every other pair. -/
  | direct
deriving DecidableEq, Repr

/-- Case selection, before anything is sent (R92). -/
def dispatchCase (cfg : Config) (m : Mode) (c : CmdWord) : DispatchCase :=
  if m = .idle ∧ isCont cfg c then .enter
  else if m = .continuous ∧ ¬ isCont cfg c ∧ ¬ isFetch cfg c then .halt
  else .direct

/-- Case 1 (R94): the registers first, then the send. -/
def enterCase (op : Caller) (c : CmdWord) (s : State) : Out :=
  dspDirect op ((((s.setLastCont c).setMode .continuous).setStretch .noStretch).goto (.dsp op .direct))

/-- Case 3 (R99): a continuous-family command refreshes `LAST_CONT`; then the preference, then the send. -/
def directCase (op : Caller) (c : CmdWord) (s : State) : Out :=
  let s' := if isCont s.cfg c then s.setLastCont c else s
  dspDirect op ((s'.setStretch (stretchOf s.cfg c)).goto (.dsp op .direct))

/-- `dispatch(c)` (R91). -/
def dispatch (op : Caller) (c : CmdWord) (s : State) : Out :=
  let s' := s.setWork { s.work with cmd := c }
  match dispatchCase s.cfg s.mode c with
  | .enter => enterCase op c s'
  | .halt => dspStop op (s'.goto (.dsp op .stop))
  | .direct => directCase op c s'

/-- A `DISPATCH` of the word `c` as the host's own request (R91). -/
def hostDispatch (c : CmdWord) (s : State) : Out := accept s (dispatch .dispatch c)

end Sys2Proof.Machine
end

