-- ==== Sys2Proof/Machine/Commands.lean ====
section
/-! DEFINITION. The meanings of the command word rows: each is the dispatch rule of its class (30_encoding.md R67), run as the
host runs it, with `DISPATCH` of that row's word (R66; log entry 15). The word is the configuration's parameter. -/

namespace Sys2Proof.Machine

/-- `CONT[0]` (R94, R104). -/
def execCont0 (s : State) : Out := hostDispatch s.cfg.contSet[0] s

/-- `CONT[1]` (R94, R104). -/
def execCont1 (s : State) : Out := hostDispatch s.cfg.contSet[1] s

/-- `CONT[2]` (R94, R104). -/
def execCont2 (s : State) : Out := hostDispatch s.cfg.contSet[2] s

/-- `CONT[3]` (R94, R104). -/
def execCont3 (s : State) : Out := hostDispatch s.cfg.contSet[3] s

/-- `CONT[4]` (R94, R104). -/
def execCont4 (s : State) : Out := hostDispatch s.cfg.contSet[4] s

/-- `CONT[5]` (R94, R104). -/
def execCont5 (s : State) : Out := hostDispatch s.cfg.contSet[5] s

/-- `FETCH` (R105). -/
def execFetch (s : State) : Out := hostDispatch s.cfg.cmdFetch s

/-- `STOP` (R106). -/
def execStop (s : State) : Out := hostDispatch s.cfg.cmdStop s

/-- `HEATER_EN` (R96, R107). -/
def execHeaterEn (s : State) : Out := hostDispatch s.cfg.cmdHeaterEn s

/-- `HEATER_DIS` (R96, R107). -/
def execHeaterDis (s : State) : Out := hostDispatch s.cfg.cmdHeaterDis s

/-- `STATUS_READ` (R96, R107). -/
def execStatusRead (s : State) : Out := hostDispatch s.cfg.cmdStatusRead s

/-- `STATUS_CLEAR` (R96, R107). -/
def execStatusClear (s : State) : Out := hostDispatch s.cfg.cmdStatusClear s

/-- `OTHER`, a word outside the vocabulary, sent as it is (R63). -/
def execOther (c : CmdWord) (s : State) : Out := hostDispatch c s

end Sys2Proof.Machine
end

