-- ==== Sys2Proof/Machine/Requests.lean ====
section
/-! DEFINITION. The meanings of the host request rows: `DISPATCH`, `READ_MEAS`, `READ_STATUS` and the refused `RESERVED`. -/

namespace Sys2Proof.Machine

/-- `RM_FETCH`: the nested dispatch of `CMD_FETCH` (R109). -/
def rmFetch (s : State) : Out := dispatch .readMeas s.cfg.cmdFetch s

/-- The path of a measurement read, in the order of R109's tests (R110). -/
def rmPath (s : State) : Out :=
  match s.stretch with
  | .unknown => rmDone (s.goto .rmDone)
  | .reserved => rmDone (s.goto .rmDone)
  | .stretch => rmReadWith false s
  | .noStretch =>
    match s.mode with
    | .continuous => rmFetch (s.goto .rmFetch)
    | .idle => rmReadWith true s

/-- The start of a measurement read (R109): the sentinel fill, and nothing received. -/
def rmStart (convert : Bool) (s : State) : Out :=
  rmPath ((s.setFrame (fillSentinel s.cfg 0 6 s.frame)).setWork { s.work with convert := convert, rx := [] })

/-- `RS_DISPATCH`: the nested dispatch of the request's command (R116). -/
def rsDispatch (s : State) : Out := dispatch .readStatus s.work.cmd s

/-- The start of a status read (R116, R117): the sentinel fill of `FR[0..2]`, and nothing received. -/
def rsStart (c : CmdWord) (s : State) : Out :=
  rsDispatch (((s.setFrame (fillSentinel s.cfg 0 3 s.frame)).setWork { s.work with cmd := c, rx := [] }).goto .rsDispatch)

/-- `DISPATCH c` (R91). -/
def execDispatch (c : CmdWord) (s : State) : Out := hostDispatch c s

/-- `READ_MEAS cv` (R109). -/
def execReadMeas (convert : Bool) (s : State) : Out := accept s (rmStart convert)

/-- `READ_STATUS c` (R116). -/
def execReadStatus (c : CmdWord) (s : State) : Out := accept s (rsStart c)

/-- A request with `op = 11` is refused at the port (R59). -/
def execReserved (_bits : BitVec 17) (_s : State) : Out := .refused .reservedOp

end Sys2Proof.Machine
end

