-- ==== Sys2Proof/Syntax.lean ====
section
/-! DEFINITION. The instructions of the block: one constructor per row of spec/opcode_table.json. The first four are the
rows of the host request space (30_encoding.md R55, R67); the others are the rows of the command word space (R52, R67),
whose words are parameters, so that a named row carries no operand. -/

namespace Sys2Proof

/-- One constructor per row of the opcode table. -/
inductive Instr where
  /-- `DISPATCH c` (R91): `op = 00`, `cv = 0`, `cmd = c`. -/
  | dispatch (c : CmdWord)
  /-- `READ_MEAS cv` (R109): `op = 01`, `cmd = 0`, `cv` the convert flag. -/
  | readMeas (convert : Bool)
  /-- `READ_STATUS c` (R116): `op = 10`, `cv = 0`, `cmd = c`. -/
  | readStatus (c : CmdWord)
  /-- `op = 11`, refused (R59); the operand is the word's other 17 bits. -/
  | reserved (bits : BitVec 17)
  /-- `CONT[0]`, the word `CONT_SET` member 0 (R94, R104). -/
  | cont0
  /-- `CONT[1]`. -/
  | cont1
  /-- `CONT[2]`. -/
  | cont2
  /-- `CONT[3]`. -/
  | cont3
  /-- `CONT[4]`. -/
  | cont4
  /-- `CONT[5]`. -/
  | cont5
  /-- `CMD_FETCH` (R105). -/
  | fetch
  /-- `CMD_STOP` (R106). -/
  | stop
  /-- `CMD_HEATER_EN`, a side command (R96, R107). -/
  | heaterEn
  /-- `CMD_HEATER_DIS`, a side command (R96, R107). -/
  | heaterDis
  /-- `CMD_STATUS_READ`, a side command (R96, R107). -/
  | statusRead
  /-- `CMD_STATUS_CLEAR`, a side command (R96, R107). -/
  | statusClear
  /-- Any word outside the vocabulary (R63, R99). -/
  | other (c : CmdWord)
deriving DecidableEq, Repr

/-- An encoded instruction: a word of one of the two opcode spaces (R67). -/
inductive Encoded where
  /-- A word of the host request space. -/
  | request (w : ReqWord)
  /-- A word of the command word space. -/
  | command (c : CmdWord)
deriving DecidableEq, Repr

end Sys2Proof
end

