-- ==== Sys2Proof/Machine/Dispatch.lean ====
section
/-! DEFINITION. One arm per constructor of `Instr`, each one direct call of its meaning. -/

namespace Sys2Proof.Machine

def exec (i : Instr) (s : State) : Host.Outcome State Fault Refusal :=
  match i with
  | .dispatch c => Sys2Proof.Machine.execDispatch c s
  | .readMeas convert => Sys2Proof.Machine.execReadMeas convert s
  | .readStatus c => Sys2Proof.Machine.execReadStatus c s
  | .reserved bits => Sys2Proof.Machine.execReserved bits s
  | .cont0 => Sys2Proof.Machine.execCont0 s
  | .cont1 => Sys2Proof.Machine.execCont1 s
  | .cont2 => Sys2Proof.Machine.execCont2 s
  | .cont3 => Sys2Proof.Machine.execCont3 s
  | .cont4 => Sys2Proof.Machine.execCont4 s
  | .cont5 => Sys2Proof.Machine.execCont5 s
  | .fetch => Sys2Proof.Machine.execFetch s
  | .stop => Sys2Proof.Machine.execStop s
  | .heaterEn => Sys2Proof.Machine.execHeaterEn s
  | .heaterDis => Sys2Proof.Machine.execHeaterDis s
  | .statusRead => Sys2Proof.Machine.execStatusRead s
  | .statusClear => Sys2Proof.Machine.execStatusClear s
  | .other c => Sys2Proof.Machine.execOther c s

end Sys2Proof.Machine
end

