-- ==== Sys2Proof/WellFormed.lean ====
section
/-! DEFINITION. Well-formed configurations (00_scope.md R10) and well-formed instructions. -/

namespace Sys2Proof

/-- WF1 (R10): the twelve command words are pairwise distinct. No step asks for it (log entry 18). -/
abbrev Config.WF1 (cfg : Config) : Prop := cfg.words.Nodup

/-- WF2 (R10), optional: `STRETCH_MSB` differs from the high byte of each of the twelve words. -/
abbrev Config.WF2 (cfg : Config) : Prop := ∀ c ∈ cfg.words, Machine.hi c ≠ cfg.stretchMsb

/-- The two parameters for which R7 gives the source's own value: `SETTLE_MS` = 16 and `SENTINEL` = 0xFF. -/
abbrev Config.SourceValues (cfg : Config) : Prop := cfg.settleMs = 16#32 ∧ cfg.sentinel = 0xFF#8

/-- An instruction is well formed under a configuration: the default row stands only for a word that no named row
matches (R52, R54). Every other operand is well formed by its type. -/
def Instr.wf (cfg : Config) : Instr → Bool
  | .other c => Machine.classOf cfg c == .other
  | .dispatch _ => true
  | .readMeas _ => true
  | .readStatus _ => true
  | .reserved _ => true
  | .cont0 => true
  | .cont1 => true
  | .cont2 => true
  | .cont3 => true
  | .cont4 => true
  | .cont5 => true
  | .fetch => true
  | .stop => true
  | .heaterEn => true
  | .heaterDis => true
  | .statusRead => true
  | .statusClear => true

end Sys2Proof
end

