-- ==== Sys2Proof/Decode.lean ====
section
/-! DEFINITION. The decoder of the two opcode spaces, total on every word (30_encoding.md R55, R54, R59, R68), and after it
the encoder, written from the same tables (R52, R55). -/

namespace Sys2Proof

/-- Why a word is no instruction. -/
inductive DecodeError where
  /-- A request word with a non-zero bit in a field that its operation does not use (R59). -/
  | reservedBits
deriving DecidableEq, Repr

/-- The field `op = REQ[18:17]` (R55). -/
def reqOp (w : ReqWord) : BitVec 2 := w.extractLsb' 17 2

/-- The field `cv = REQ[16]` (R55). -/
def reqCv (w : ReqWord) : Bool := w.getLsbD 16

/-- The field `cmd = REQ[15:0]` (R55). -/
def reqCmd (w : ReqWord) : CmdWord := w.extractLsb' 0 16

/-- The seventeen bits below `op`, which a reserved request carries unread. -/
def reqRest (w : ReqWord) : BitVec 17 := w.extractLsb' 0 17

/-- Decoding a host request word (R55, R59): one of the rows, or rejected for its reserved bits. -/
def decodeRequest (w : ReqWord) : Except DecodeError Instr :=
  match (reqOp w).toNat with
  | 0 => if reqCv w then .error .reservedBits else .ok (.dispatch (reqCmd w))
  | 1 => if reqCmd w = 0 then .ok (.readMeas (reqCv w)) else .error .reservedBits
  | 2 => if reqCv w then .error .reservedBits else .ok (.readStatus (reqCmd w))
  | _ => .ok (.reserved (reqRest w))

/-- The named rows of the command word space, each a full match of the word on its parameter (R52, R67), in the order in
which R54 tests them. -/
def commandRows (cfg : Config) : List (CmdWord × Instr) :=
  [(cfg.contSet[0], .cont0), (cfg.contSet[1], .cont1), (cfg.contSet[2], .cont2),
    (cfg.contSet[3], .cont3), (cfg.contSet[4], .cont4), (cfg.contSet[5], .cont5),
    (cfg.cmdFetch, .fetch), (cfg.cmdStop, .stop), (cfg.cmdHeaterEn, .heaterEn),
    (cfg.cmdHeaterDis, .heaterDis), (cfg.cmdStatusRead, .statusRead), (cfg.cmdStatusClear, .statusClear)]

/-- Decoding a command word: the first named row whose word it is, or the default row (R54, R67). -/
def decodeCommand (cfg : Config) (c : CmdWord) : Instr :=
  match (commandRows cfg).find? (fun row => row.1 == c) with
  | some row => row.2
  | none => .other c

/-- Decoding a word of either space. -/
def decode (cfg : Config) : Encoded → Except DecodeError Instr
  | .request w => decodeRequest w
  | .command c => .ok (decodeCommand cfg c)

/-- The request word with the given fields (R55). -/
def requestWord (op : BitVec 2) (cv : Bool) (cmd : CmdWord) : ReqWord :=
  op ++ (BitVec.ofBool cv ++ cmd)

/-- The encoder: the word of an instruction, in its own space (R52, R55). -/
def encode (cfg : Config) : Instr → Encoded
  | .dispatch c => .request (requestWord 0#2 false c)
  | .readMeas cv => .request (requestWord 1#2 cv 0#16)
  | .readStatus c => .request (requestWord 2#2 false c)
  | .reserved bits => .request (3#2 ++ bits)
  | .cont0 => .command cfg.contSet[0]
  | .cont1 => .command cfg.contSet[1]
  | .cont2 => .command cfg.contSet[2]
  | .cont3 => .command cfg.contSet[3]
  | .cont4 => .command cfg.contSet[4]
  | .cont5 => .command cfg.contSet[5]
  | .fetch => .command cfg.cmdFetch
  | .stop => .command cfg.cmdStop
  | .heaterEn => .command cfg.cmdHeaterEn
  | .heaterDis => .command cfg.cmdHeaterDis
  | .statusRead => .command cfg.cmdStatusRead
  | .statusClear => .command cfg.cmdStatusClear
  | .other c => .command c

/-- The word of spec/opcode_table.json with `nbits` bits and value `w`. The table's command rows have 16 bits or fewer (the
default row names only its low byte) and its request rows 19, in three whole bytes; a value that does not fit its
space's word is no word of it (log entry 14). -/
def tableWord (nbits w : Nat) : Option Encoded :=
  if nbits ≤ 16 then
    if w < 2 ^ 16 then some (.command (BitVec.ofNat 16 w)) else none
  else
    if w < 2 ^ 19 then some (.request (BitVec.ofNat 19 w)) else none

/-- What the decoder reads from a word of spec/opcode_table.json, whose command rows are those of EX (R67). -/
def decodeTableWord (nbits w : Nat) : Option Instr :=
  match tableWord nbits w with
  | none => none
  | some e =>
    match decode Machine.configEx e with
    | .ok i => some i
    | .error _ => none

/-- The request that makes the block run an encoded instruction: a request word is itself, and a command word is the
operand of `DISPATCH` (R66; log entry 15). -/
def hostRequestOf : Encoded → ReqWord
  | .request w => w
  | .command c => requestWord 0#2 false c

end Sys2Proof
end

