-- ==== Sys2Proof/Machine/Sequencer.lean ====
section
/-! DEFINITION. What a step does around `exec`: fetching the next request word from the request port (10_state.md R31), and
resuming a request that holds in a phase (R24, 60_exceptions.md R142). -/

namespace Sys2Proof.Machine

/-- The request word the port takes next, if one is presented (R31). -/
def nextRequest (s : State) : Option ReqWord := s.requests.head?

/-- The refusal a rejected request word ends in (R59). -/
def refusalOf : DecodeError → Refusal
  | .reservedBits => .reservedBits

/-- The request in progress goes on from its phase (R24). With no answer from the environment this changes nothing: the
block holds (R14). -/
def resume (s : State) : Out :=
  match s.seq with
  | .ready => .next s
  | .dsp op .stop => dspStop op s
  | .dsp op .settle => dspSettle op s
  | .dsp op .cmd => dspCmd op s
  | .dsp op .resume => dspResume op s
  | .dsp op .direct => dspDirect op s
  | .rmFetch => rmFetch s
  | .rmRead => rmRead s
  | .rmDone => rmDone s
  | .rsDispatch => rsDispatch s
  | .rsRead => rsRead s
  | .rsDone => rsDone s

/-- The state with a request word at the front of the port and the port READY. -/
def presentFirst (w : ReqWord) (s : State) : State := (s.setRequests (w :: s.requests)).goto .ready

/-- The state in which the next step runs a word of the opcode table; a value that is no word of its space places nothing
(log entries 2, 14, 15). -/
def placeTableWord (nbits w : Nat) (s : State) : State :=
  match tableWord nbits w with
  | some e => presentFirst (hostRequestOf e) s
  | none => s

end Sys2Proof.Machine
end

