-- ==== Sys2Proof/Machine/Step.lean ====
section
/-! DEFINITION. One step of the block. READY: the next presented request is decoded and run, as far as the environment's
answers go; with none presented the block waits (10_state.md R31, 70_reset_and_hazards.md R143). Not READY: the request in
progress goes on from its phase (R24; log entry 4). -/

namespace Sys2Proof.Machine

/-- One step. -/
def step (s : State) : Host.Outcome State Fault Refusal :=
  if s.seq = .ready then
    match nextRequest s with
    | none => .next s
    | some w =>
      match decodeRequest w with
      | .ok i => exec i s
      | .error e => .refused (refusalOf e)
  else resume s

/-- The state in which the next step runs the word `w` of spec/opcode_table.json, of `nbits` bits: placed first at a port set
to READY, in a busy state too (DESIGN CHOICE, log entry 2). -/
def State.withFetchWord (s : State) (nbits w : Nat) : State := placeTableWord nbits w s

end Sys2Proof.Machine
end

