-- ==== Sys2Proof/Safety.lean ====
section
/-! DEFINITION. What counts as a safe state of the block, in the terms the statements use: the invariants the spec states of
reachable states (10_state.md R22, R23; 70_reset_and_hazards.md R151), each with what a hold inside a request adds to it, and
the detection property of the CRC (40_crc_engine.md R76). -/

namespace Sys2Proof.Machine

/-- The phases of case 2 of a dispatch (R91). -/
def Seq.inHalt : Seq → Bool
  | .dsp _ .stop => true
  | .dsp _ .settle => true
  | .dsp _ .cmd => true
  | .dsp _ .resume => true
  | .dsp _ .direct => false
  | .ready => false
  | .rmFetch => false
  | .rmRead => false
  | .rmDone => false
  | .rsDispatch => false
  | .rsRead => false
  | .rsDone => false

/-- The phases of case 2 between the successful stop and the command (R95, R98). -/
def Seq.inSettle : Seq → Bool
  | .dsp _ .settle => true
  | .dsp _ .cmd => true
  | .dsp _ .stop => false
  | .dsp _ .resume => false
  | .dsp _ .direct => false
  | .ready => false
  | .rmFetch => false
  | .rmRead => false
  | .rmDone => false
  | .rsDispatch => false
  | .rsRead => false
  | .rsDone => false

/-- Whenever `LAST_CONT` could be read it has been written (R22): in Continuous it is written, and case 2 runs only in
Continuous. -/
def LastContSafe (s : State) : Prop :=
  (s.mode = .continuous → s.lastContWritten = true) ∧ (s.seq.inHalt = true → s.mode = .continuous)

/-- `ADDR` is the construction argument (R23). -/
def AddrFixed (s : State) : Prop := s.addr = s.cfg.addr

/-- R151 with what holds inside a request added: the preference is Stretch or NoStretch, and in Continuous it is NoStretch,
except between the successful stop and the command of a dispatch that is leaving Continuous (log entry 19). -/
def StretchSafe (s : State) : Prop :=
  s.stretch ≠ .unknown ∧ s.stretch ≠ .reserved ∧
    (s.mode = .continuous →
      s.stretch = .noStretch ∨ (s.seq.inSettle = true ∧ isSide s.cfg s.work.cmd = false))

/-- The byte with bit `k` flipped. -/
def flipBit (b : Byte) (k : Nat) : Byte := b ^^^ (1#8 <<< k)

/-- The frame with bit `k` of byte `j` flipped. -/
def flipAt (fr : Frame) (j : Fin 6) (k : Nat) : Frame := fr.set j (flipBit fr[j] k)

/-- The detection property of R76: each field check accepts the correct checksum, and rejects every frame that differs from
an accepted one in a single bit of the field's two data bytes or its checksum. -/
def CrcDetects (cfg : Config) : Prop :=
  (∀ fr : Frame, fr[0] = checksum cfg [fr[2], fr[1]] → firstOk cfg fr = true) ∧
  (∀ fr : Frame, fr[3] = checksum cfg [fr[5], fr[4]] → secondOk cfg fr = true) ∧
  (∀ (fr : Frame) (j : Fin 6) (k : Nat), firstOk cfg fr = true → j.val < 3 → k < 8 →
    firstOk cfg (flipAt fr j k) = false) ∧
  (∀ (fr : Frame) (j : Fin 6) (k : Nat), secondOk cfg fr = true → 3 ≤ j.val → k < 8 →
    secondOk cfg (flipAt fr j k) = false)

/-- The word an instruction has the block dispatch as the host's own request: the operand of `DISPATCH`, or the word of a
command row (R66, R91). -/
def dispatchedWord (cfg : Config) : Instr → Option CmdWord
  | .dispatch c => some c
  | .readMeas _ => none
  | .readStatus _ => none
  | .reserved _ => none
  | .cont0 => some cfg.contSet[0]
  | .cont1 => some cfg.contSet[1]
  | .cont2 => some cfg.contSet[2]
  | .cont3 => some cfg.contSet[3]
  | .cont4 => some cfg.contSet[4]
  | .cont5 => some cfg.contSet[5]
  | .fetch => some cfg.cmdFetch
  | .stop => some cfg.cmdStop
  | .heaterEn => some cfg.cmdHeaterEn
  | .heaterDis => some cfg.cmdHeaterDis
  | .statusRead => some cfg.cmdStatusRead
  | .statusClear => some cfg.cmdStatusClear
  | .other c => some c

/-- The command word a request carries from the host (R57): that of a dispatch, or of a status read. -/
def hostWord (cfg : Config) : Instr → Option CmdWord
  | .readStatus c => some c
  | .dispatch c => some c
  | .readMeas _ => none
  | .reserved _ => none
  | .cont0 => some cfg.contSet[0]
  | .cont1 => some cfg.contSet[1]
  | .cont2 => some cfg.contSet[2]
  | .cont3 => some cfg.contSet[3]
  | .cont4 => some cfg.contSet[4]
  | .cont5 => some cfg.contSet[5]
  | .fetch => some cfg.cmdFetch
  | .stop => some cfg.cmdStop
  | .heaterEn => some cfg.cmdHeaterEn
  | .heaterDis => some cfg.cmdHeaterDis
  | .statusRead => some cfg.cmdStatusRead
  | .statusClear => some cfg.cmdStatusClear
  | .other c => some c

/-- The bus event of one send of the word `c` (R90). -/
def sendEvent (s : State) (c : CmdWord) (st : TransportStatus) : Event := .write s.addr (hi c) (lo c) st

/-- The frame of six sentinel bytes (R109). -/
def sentinelFrame (cfg : Config) : Frame := Vector.replicate 6 cfg.sentinel

/-- `CLASS` of a measurement read that received `rx` (R111, R112). -/
def measClass (cfg : Config) (rx : List Byte) : Classification :=
  if rx = [] then .noneValid else validateMeas cfg (place rx (sentinelFrame cfg))

/-- `FR` after a measurement read that received `rx` (R109). -/
def measFrame (cfg : Config) (rx : List Byte) : Frame :=
  mask cfg 6 (measClass cfg rx) (place rx (sentinelFrame cfg))

/-- The response of a measurement read that received `rx` (R113, R114, R56): humidity in the high half. -/
def measWord (cfg : Config) (convert : Bool) (rx : List Byte) : BitVec 32 :=
  (if convert = true ∧ (measClass cfg rx = .allValid ∨ measClass cfg rx = .onlyFirst)
    then convH (field1 (measFrame cfg rx)) else field1 (measFrame cfg rx)) ++
  (if convert = true ∧ (measClass cfg rx = .allValid ∨ measClass cfg rx = .onlySecond)
    then convT (field2 (measFrame cfg rx)) else field2 (measFrame cfg rx))

/-- The frame buffer at the start of a status read (R116, R117). -/
def regStart (cfg : Config) (fr : Frame) : Frame :=
  #v[cfg.sentinel, cfg.sentinel, cfg.sentinel, fr[3], fr[4], fr[5]]

/-- `CLASS` of a status read that received `rx` (R119, R120). -/
def regClass (cfg : Config) (rx : List Byte) (fr : Frame) : Classification :=
  if rx = [] then .noneValid else validateReg cfg (place rx (regStart cfg fr))

/-- `FR` after a status read that received `rx` (R116). -/
def regFrame (cfg : Config) (rx : List Byte) (fr : Frame) : Frame :=
  mask cfg 3 (regClass cfg rx fr) (place rx (regStart cfg fr))

end Sys2Proof.Machine
end

