-- ==== Sys2Proof/Certificates/Slice0/Obligations.lean ====
section
/-! DEFINITION. The statements about the model. Each is a closed proposition; none is proved here. "cites" and quotes stand in
OBLIGATIONS.json; a docstring says what the statement formalises. -/

open Sys2Proof Sys2Proof.Machine

/-! ## Decoding and encoding -/

/-- The request and command words of the spec's vectors decode to their instructions (95_test_vectors.md V-R8 to
V-R12; 30_encoding.md sections 1, 2 and 6; 92_eei_decisions.md D2 and D12; notes/assumptions/1.md (the values of EX)).
The request layout is the spec's decision D2; the command words of EX are the spec's general knowledge (log entry 1,
PRESUMED; D12). -/
def Obligations.SpecWordsDecode : Prop :=
  decodeRequest 0x02130#19 = .ok (.dispatch 0x2130#16) ∧
  decodeRequest 0x30000#19 = .ok (.readMeas true) ∧
  decodeRequest 0x20000#19 = .ok (.readMeas false) ∧
  decodeRequest 0x4F32D#19 = .ok (.readStatus 0xF32D#16) ∧
  decodeRequest 0x60000#19 = .ok (.reserved 0#17) ∧
  decodeRequest 0x12130#19 = .error .reservedBits ∧
  decodeRequest 0x20001#19 = .error .reservedBits ∧
  decodeRequest 0x5F32D#19 = .error .reservedBits ∧
  decodeCommand configEx 0x2130#16 = .cont1 ∧
  decodeCommand configEx 0xE000#16 = .fetch ∧
  decodeCommand configEx 0x3093#16 = .stop ∧
  decodeCommand configEx 0x3066#16 = .heaterDis ∧
  decodeCommand configEx 0xF32D#16 = .statusRead ∧
  decodeCommand configEx 0x2C06#16 = .other 0x2C06#16 ∧
  decodeCommand configEx 0x2400#16 = .other 0x2400#16 ∧
  decodeCommand configEx 0x3041#16 = .statusClear ∧
  classOf configEx 0x2C06#16 = .other ∧ classOf configEx 0x2400#16 = .other ∧ classOf configEx 0x3041#16 = .side

/-- Every request word decodes by its op, cv and cmd fields, or is rejected for a non-zero unused field (R55; R59;
R67; 92_eei_decisions.md D2). The layout is the spec's decision D2. -/
def Obligations.RequestFieldsDecode : Prop :=
  ∀ w : ReqWord,
    (w &&& 0x70000#19 = 0x00000#19 → decodeRequest w = .ok (.dispatch (w.extractLsb' 0 16))) ∧
    (w &&& 0x6FFFF#19 = 0x20000#19 → decodeRequest w = .ok (.readMeas (w.getLsbD 16))) ∧
    (w &&& 0x70000#19 = 0x40000#19 → decodeRequest w = .ok (.readStatus (w.extractLsb' 0 16))) ∧
    (w &&& 0x60000#19 = 0x60000#19 → decodeRequest w = .ok (.reserved (w.extractLsb' 0 17))) ∧
    (w &&& 0x70000#19 ≠ 0x00000#19 → w &&& 0x6FFFF#19 ≠ 0x20000#19 → w &&& 0x70000#19 ≠ 0x40000#19 →
      w &&& 0x60000#19 ≠ 0x60000#19 → decodeRequest w = .error .reservedBits)

/-- Decoding the encoding of a well-formed instruction gives the instruction, for every instruction and every WF1
configuration (30_encoding.md sections 1, 2 and 6; 00_scope.md section 3; 92_eei_decisions.md D2 and D15). The request
layout is the spec's decision D2, and WF1 its decision D15. -/
def Obligations.DecodeOfEncodeIsTheInstruction : Prop :=
  ∀ (cfg : Config) (i : Instr), cfg.WF1 → i.wf cfg = true → decode cfg (encode cfg i) = .ok i

/-- Encoding what a word decodes to gives the word back, and it is well formed, under every configuration
(30_encoding.md sections 1, 2 and 6; 92_eei_decisions.md D2; notes/assumptions/18.md (configurations without WF1)).
The request layout is the spec's decision D2; that a configuration without WF1 decodes by the first row that matches
is the model's choice (log entry 18). -/
def Obligations.EncodeOfDecodeIsTheWord : Prop :=
  ∀ (cfg : Config) (e : Encoded) (i : Instr), decode cfg e = .ok i → encode cfg i = e ∧ i.wf cfg = true

/-- Under WF1 the class of a command word is decided by one test, in any order (30_encoding.md section 1;
42_request_codec.md; 92_eei_decisions.md D15). WF1 is the spec's decision D15. -/
def Obligations.CommandClassesExcludeEachOther : Prop :=
  ∀ (cfg : Config) (c : CmdWord), cfg.WF1 →
    (classOf cfg c = .cont ↔ isCont cfg c = true) ∧
    (classOf cfg c = .fetch ↔ isFetch cfg c = true) ∧
    (classOf cfg c = .stop ↔ c = cfg.cmdStop) ∧
    (classOf cfg c = .side ↔ isSide cfg c = true) ∧
    (classOf cfg c = .other ↔
      isCont cfg c = false ∧ isFetch cfg c = false ∧ c ≠ cfg.cmdStop ∧ isSide cfg c = false)

/-! ## The port and the step -/

/-- A step in READY runs the instruction its request word decodes to (10_state.md section 4; 30_encoding.md section 2;
notes/assumptions/2.md (the presented words); notes/assumptions/4.md (the size of a step)). The list of presented
words and the size of a step are the model's choices (log entries 2 and 4). -/
def Obligations.StepRunsTheAcceptedRequest : Prop :=
  ∀ (s : State) (w : ReqWord) (later : List ReqWord) (i : Instr),
    s.seq = .ready → s.requests = w :: later → decodeRequest w = .ok i → step s = exec i s

/-- DISPATCH of a word is the instruction of the command row that word decodes to (30_encoding.md section 5;
30_encoding.md section 6; notes/assumptions/15.md (what a command row means); notes/assumptions/18.md (configurations
without WF1)). That a command row means the dispatch of its word is the model's inference (log entry 15); a
configuration without WF1 is its choice (log entry 18). -/
def Obligations.DispatchIsItsCommandRow : Prop :=
  ∀ (s : State) (c : CmdWord), exec (.dispatch c) s = exec (decodeCommand s.cfg c) s

/-- A word of the opcode table placed at the port is run by the next step as its row's instruction (30_encoding.md
section 6; 10_state.md section 4; notes/assumptions/2.md (how the word is placed); notes/assumptions/14.md (the word
space by width); notes/assumptions/1.md (the values of EX)). That the word is placed first at a port set to READY, and
that its width tells its space, is the model's choice (log entries 2 and 14). The values of EX are the spec's general
knowledge (log entry 1, PRESUMED). -/
def Obligations.PlacedTableWordIsRun : Prop :=
  ∀ (s : State) (nbits w : Nat) (i : Instr), s.cfg = configEx → decodeTableWord nbits w = some i →
    step (s.withFetchWord nbits w) = exec i (s.withFetchWord nbits w)

/-- A request with op 11 is refused as ReservedOp, one with a non-zero unused field as ReservedBits (R59;
92_eei_decisions.md D2; notes/assumptions/13.md (the RESERVED clause in a busy state); notes/assumptions/2.md (the
presented words)). That RESERVED is refused in a busy state too is the model's choice (log entry 13). The list of
presented words is the model's choice too (log entry 2). -/
def Obligations.ReservedRequestsAreRefused : Prop :=
  (∀ (bits : BitVec 17) (s : State), exec (.reserved bits) s = .refused .reservedOp) ∧
  (∀ (s : State) (w : ReqWord) (later : List ReqWord), s.seq = .ready → s.requests = w :: later →
    w.extractLsb' 17 2 = 3#2 → step s = .refused .reservedOp) ∧
  (∀ (s : State) (w : ReqWord) (later : List ReqWord), s.seq = .ready → s.requests = w :: later →
    ((w.extractLsb' 17 2 = 0#2 ∨ w.extractLsb' 17 2 = 2#2) ∧ w.getLsbD 16 = true) ∨
      (w.extractLsb' 17 2 = 1#2 ∧ w.extractLsb' 0 16 ≠ 0#16) → step s = .refused .reservedBits)

/-- A busy port keeps every presented request, and a READY port takes exactly the first (10_state.md section 4;
92_eei_decisions.md D21; notes/assumptions/2.md (the presented words); notes/assumptions/4.md (the size of a step);
notes/assumptions/13.md (an instruction executed while busy)). Serialization is the spec's decision D21; the list of
presented words, the size of a step and that an instruction executed while the port is busy waits are the model's (log
entries 2, 4 and 13). -/
def Obligations.RequestsAreTakenOneAtATime : Prop :=
  (∀ s t : State, s.seq ≠ .ready → step s = .next t → t.requests = s.requests) ∧
  (∀ (s : State) (i : Instr), s.seq ≠ .ready → (∀ bits, i ≠ .reserved bits) → exec i s = .next s) ∧
  (∀ (s t : State) (w : ReqWord) (later : List ReqWord), s.seq = .ready → s.requests = w :: later →
    step s = .next t → t.requests = later)

/-- With no request presented, or no answer from the environment, a step changes nothing (00_scope.md section 4;
60_exceptions.md section 7; 70_reset_and_hazards.md section 4; 92_eei_decisions.md D29; notes/assumptions/2.md (the
presented words); notes/assumptions/3.md (the answers of the environment); notes/assumptions/4.md (the size of a
step)). That an empty list is no request or no answer yet, and that a hold is a step that changes nothing, is the
model's choice (log entries 2, 3 and 4); that a transport may hang is the spec's decision D29. -/
def Obligations.NothingMovesWithoutInput : Prop :=
  ∀ s : State,
    (s.seq = .ready → s.requests = [] → step s = .next s) ∧
    (∀ op, (s.seq = .dsp op .stop ∨ s.seq = .dsp op .cmd ∨ s.seq = .dsp op .direct ∨
        (s.seq = .dsp op .resume ∧ s.lastContWritten = true)) → s.statusIn = [] → step s = .next s) ∧
    ((s.seq = .rmRead ∨ s.seq = .rsRead) → s.bytesIn = [] → step s = .next s) ∧
    (∀ op, s.seq = .dsp op .settle → s.timeIn = [] → step s = .next s)

/-- A request held for want of an answer and resumed with it ends as if the answer had been there at once (10_state.md
section 3; 00_scope.md section 4; 60_exceptions.md section 7; notes/assumptions/3.md (the answers of the environment);
notes/assumptions/4.md (the size of a step); notes/assumptions/6.md (the working values)). The lists of answers, the
size of a step and the working values that a hold keeps are the model's (log entries 3, 4 and 6). -/
def Obligations.HeldRequestGoesOnAsIfNeverHeld : Prop :=
  ∀ (s t : State) (i : Instr) (codes : List (BitVec 3)) (reads : List (List Byte)) (times : List Time),
    s.seq = .ready → exec i s = .next t → t.seq ≠ .ready →
    exec i (s.offer codes reads times) = step (t.offer codes reads times)

/-- A transport status of 6 or 7, or more bytes than asked, ends in refuse(TransportContract) in every phase that
waits for it (20_memory.md section 2; 60_exceptions.md section 7; 92_eei_decisions.md D22; notes/assumptions/3.md (the
answers of the environment); notes/assumptions/4.md (the size of a step); notes/assumptions/16.md (the 3-bit status)).
The refusal is the spec's decision D22; the lists of answers, the size of a step and the 3-bit status are the model's
(log entries 3, 4 and 16). -/
def Obligations.ContractBreakersAreRefused : Prop :=
  (∀ (s : State) (op : Caller) (code : BitVec 3) (later : List (BitVec 3)),
    (s.seq = .dsp op .stop ∨ s.seq = .dsp op .cmd ∨ s.seq = .dsp op .direct ∨
      (s.seq = .dsp op .resume ∧ s.lastContWritten = true)) →
    s.statusIn = code :: later → (code = 6#3 ∨ code = 7#3) → step s = .refused .transportContract) ∧
  (∀ (s : State) (rx : List Byte) (later : List (List Byte)), s.bytesIn = rx :: later →
    (s.seq = .rmRead ∧ 6 < rx.length) ∨ (s.seq = .rsRead ∧ 3 < rx.length) → step s = .refused .transportContract) ∧
  (∀ (s : State) (i : Instr) (c : CmdWord) (code : BitVec 3) (later : List (BitVec 3)),
    hostWord s.cfg i = some c → s.seq = .ready → s.statusIn = code :: later → (code = 6#3 ∨ code = 7#3) →
    exec i s = .refused .transportContract) ∧
  (∀ (s : State) (convert : Bool) (code : BitVec 3) (later : List (BitVec 3)), s.seq = .ready →
    s.stretch = .noStretch → s.mode = .continuous → s.statusIn = code :: later → (code = 6#3 ∨ code = 7#3) →
    exec (.readMeas convert) s = .refused .transportContract) ∧
  (∀ (s : State) (convert : Bool) (rx : List Byte) (later : List (List Byte)), s.seq = .ready →
    (s.stretch = .stretch ∨ (s.stretch = .noStretch ∧ s.mode = .idle) ∨
      (s.stretch = .noStretch ∧ s.mode = .continuous ∧
        ∃ codes, s.statusIn = TransportStatus.code .success :: codes)) →
    s.bytesIn = rx :: later → 6 < rx.length → exec (.readMeas convert) s = .refused .transportContract)

/-! ## Reset -/

/-- After reset the block is Idle, NoStretch and READY, LAST_CONT is unwritten and ADDR is the argument (10_state.md
section 5; 70_reset_and_hazards.md section 1; 92_eei_decisions.md D5 and D25; notes/assumptions/1.md (EX as the reset
configuration); notes/assumptions/5.md (the event log); notes/assumptions/8.md (the unwritten mark)). That reset is
construction and makes no bus traffic, and that LAST_CONT is unwritten, are the spec's decisions D25 and D5; the mark,
the log and EX as the configuration of the machine's reset state are the model's choices (log entries 8, 5 and 1). -/
def Obligations.ResetLeavesIdleNoStretchReady : Prop :=
  (∀ cfg : Config,
    (State.resetOf cfg).mode = .idle ∧ (State.resetOf cfg).stretch = .noStretch ∧
    (State.resetOf cfg).lastContWritten = false ∧ (State.resetOf cfg).addr = cfg.addr ∧
    (State.resetOf cfg).seq.op = .none ∧ (State.resetOf cfg).seq.phase = .ready ∧
    (State.resetOf cfg).log = [] ∧ (State.resetOf cfg).cfg = cfg) ∧
  State.reset = State.resetOf configEx

/-- The state after reset meets every invariant of the model (10_state.md sections 2 and 5; 70_reset_and_hazards.md
section 3; notes/assumptions/8.md (the unwritten mark); notes/assumptions/19.md (the stretch invariant)). The written
mark and the exception in the stretch invariant are the model's (log entries 8 and 19). -/
def Obligations.ResetMeetsTheInvariants : Prop :=
  ∀ cfg : Config,
    LastContSafe (State.resetOf cfg) ∧ AddrFixed (State.resetOf cfg) ∧ StretchSafe (State.resetOf cfg)

/-! ## The request codec and the code sets -/

/-- hi and lo split a command word into its high and low byte, which together are the word (R84; R85). -/
def Obligations.CommandBytesAreHighAndLow : Prop :=
  ∀ c : CmdWord, (hi c).toNat = c.toNat / 256 ∧ (lo c).toNat = c.toNat % 256 ∧ c = hi c ++ lo c

/-- is_cont, is_fetch, is_side and is_status_read are exact comparisons with the parameters (R86; R87; R88; R89). -/
def Obligations.CommandPredicatesAreExactMatches : Prop :=
  ∀ (cfg : Config) (c : CmdWord),
    (isCont cfg c = true ↔ ∃ k : Fin 6, c = cfg.contSet[k]) ∧
    (isFetch cfg c = true ↔ c = cfg.cmdFetch) ∧
    (isSide cfg c = true ↔ c = cfg.cmdHeaterEn ∨ c = cfg.cmdHeaterDis ∨ c = cfg.cmdStatusRead ∨ c = cfg.cmdStatusClear) ∧
    (isStatusRead cfg c = true ↔ c = cfg.cmdStatusRead)

/-- stretch_of is Stretch exactly for the words whose high byte is STRETCH_MSB (R53). -/
def Obligations.StretchPreferenceIsTheHighByte : Prop :=
  ∀ (cfg : Config) (c : CmdWord),
    (c.extractLsb' 8 8 = cfg.stretchMsb → stretchOf cfg c = .stretch) ∧
    (c.extractLsb' 8 8 ≠ cfg.stretchMsb → stretchOf cfg c = .noStretch)

/-- The codes of the transport statuses, classifications and session registers are those of the spec's tables
(30_encoding.md section 3; 92_eei_decisions.md D3 and D4; notes/assumptions/16.md (the 3-bit status)). The numbers are
the spec's decisions D3 and D4; that a status is 3 bits wide is the model's inference (log entry 16). -/
def Obligations.CodeSetsAreTheSpecs : Prop :=
  (TransportStatus.code .success = 0 ∧ TransportStatus.code .dataTooLong = 1 ∧ TransportStatus.code .addressNack = 2 ∧
    TransportStatus.code .dataNack = 3 ∧ TransportStatus.code .otherError = 4 ∧ TransportStatus.code .timeout = 5) ∧
  (∀ st, TransportStatus.ofCode (TransportStatus.code st) = some st) ∧
  TransportStatus.ofCode 6 = none ∧ TransportStatus.ofCode 7 = none ∧
  (Classification.code .allValid = 0 ∧ Classification.code .onlyFirst = 1 ∧
    Classification.code .onlySecond = 2 ∧ Classification.code .noneValid = 3) ∧
  (∀ c, Classification.ofCode (Classification.code c) = c) ∧
  (Mode.code .idle = 0 ∧ Mode.code .continuous = 1) ∧
  (Stretch.code .noStretch = 0 ∧ Stretch.code .stretch = 1 ∧ Stretch.code .unknown = 2 ∧ Stretch.code .reserved = 3)

/-! ## The CRC engine -/

/-- The checksum of no bytes is CRC_INIT, and each byte takes one table step (40_crc_engine.md; 92_eei_decisions.md
D13; notes/assumptions/17.md (the update step)). The update step is the spec's general knowledge (R69, D13) and log
entry 17's (PRESUMED). -/
def Obligations.ChecksumTakesOneTableStepPerByte : Prop :=
  ∀ cfg : Config, checksum cfg [] = cfg.crcInit ∧
    ∀ (seq : List Byte) (b : Byte), checksum cfg (seq ++ [b]) = cfg.crcTable[(checksum cfg seq ^^^ b).toNat]

/-- A measurement frame's class is the truth table of its two field checks, each over the higher index first (R71;
R74). -/
def Obligations.MeasurementClassFollowsTheFieldChecks : Prop :=
  ∀ (cfg : Config) (fr : Frame),
    (firstOk cfg fr = true ↔ checksum cfg [fr[2], fr[1]] = fr[0]) ∧
    (secondOk cfg fr = true ↔ checksum cfg [fr[5], fr[4]] = fr[3]) ∧
    validateMeas cfg fr =
      (if firstOk cfg fr = true then (if secondOk cfg fr = true then .allValid else .onlyFirst)
        else (if secondOk cfg fr = true then .onlySecond else .noneValid))

/-- A register frame's class is OnlyFirstFieldValid if its field check holds and NoneValid otherwise (R75). -/
def Obligations.RegisterClassIsFirstFieldOnly : Prop :=
  ∀ (cfg : Config) (fr : Frame),
    validateReg cfg fr = (if checksum cfg [fr[2], fr[1]] = fr[0] then .onlyFirst else .noneValid)

/-- Every configuration whose CRC table is injective detects every single-bit flip of a field and its checksum
(40_crc_engine.md; 92_eei_decisions.md D13; notes/assumptions/17.md (the update step)). The whole statement rests on
the update step crc <- CRC_TABLE[crc xor b], which is the spec's general knowledge (R69, D13) and log entry 17's
(PRESUMED, unsafe for claims that a frame is valid). -/
def Obligations.InjectiveTableDetectsBitFlips : Prop :=
  ∀ cfg : Config, (∀ a b : Byte, cfg.crcTable[a.toNat] = cfg.crcTable[b.toNat] → a = b) → CrcDetects cfg

/-- The CRC of EX detects every single-bit flip of a field and its checksum (40_crc_engine.md; 95_test_vectors.md
V-C7; 92_eei_decisions.md D13; 93_implementation_defined.md G3; notes/assumptions/1.md (the values of EX);
notes/assumptions/17.md (the update step)). It rests on the update step of the checksum (R69, D13; log entry 17,
PRESUMED) and on the CRC table and initial value of EX (93_implementation_defined.md G3; log entry 1, PRESUMED), all
of them the spec's general knowledge. -/
def Obligations.ExampleCrcDetectsBitFlips : Prop :=
  CrcDetects configEx

/-! ## The frame buffer and the mask -/

/-- Received bytes overwrite the frame from index 0, and the other bytes keep what they hold (20_memory.md section 3).
-/
def Obligations.ReceivedBytesFillFromIndexZero : Prop :=
  (∀ (rx : List Byte) (fr : Frame) (j : Nat) (hj : j < 6),
    (place rx fr)[j] = if h : j < rx.length then rx[j] else fr[j]) ∧
  (∀ fr : Frame, (field1 fr).toNat = 256 * fr[1].toNat + fr[2].toNat ∧
    (field2 fr).toNat = 256 * fr[4].toNat + fr[5].toNat)

/-- The mask writes SENTINEL to exactly the bytes its class marks invalid (R78). -/
def Obligations.MaskOverwritesInvalidBytesOnly : Prop :=
  ∀ (cfg : Config) (len : Nat) (c : Classification) (fr : Frame) (j : Nat) (hj : j < 6), (len = 6 ∨ len = 3) →
    (mask cfg len c fr)[j] =
      if (c = .noneValid ∧ j < len) ∨ (c = .onlySecond ∧ j < 3) ∨ (c = .onlyFirst ∧ 3 < len ∧ 3 ≤ j)
      then cfg.sentinel else fr[j]

/-- Masking a masked frame again changes nothing (41_invalidation_mask.md). -/
def Obligations.MaskTwiceIsMaskOnce : Prop :=
  ∀ (cfg : Config) (len : Nat) (c : Classification) (fr : Frame),
    mask cfg len c (mask cfg len c fr) = mask cfg len c fr ∧ mask cfg len .allValid fr = fr

/-- A field its class marks invalid is answered as 0xFFFF, converted or not (41_invalidation_mask.md;
44_reading_assembler.md section 1; 60_exceptions.md section 1; 92_eei_decisions.md D17 and D19). What gates
conversion, and the register frame's start value, are the spec's decisions D19 and D17. -/
def Obligations.InvalidFieldsAreAnsweredAsFFFF : Prop :=
  ∀ (cfg : Config) (convert : Bool) (rx : List Byte) (fr : Frame), cfg.sentinel = 0xFF#8 →
    ((measClass cfg rx = .noneValid ∨ measClass cfg rx = .onlySecond) →
      (measWord cfg convert rx).extractLsb' 16 16 = 0xFFFF#16) ∧
    ((measClass cfg rx = .noneValid ∨ measClass cfg rx = .onlyFirst) →
      (measWord cfg convert rx).extractLsb' 0 16 = 0xFFFF#16) ∧
    (regClass cfg rx fr = .noneValid → field1 (regFrame cfg rx fr) = 0xFFFF#16)

/-! ## Conversion -/

/-- conv_h and conv_t are the truncated formulas, in 0 to 100 and in -45 to 130 (44_reading_assembler.md section 1;
92_eei_decisions.md D18). -/
def Obligations.ConversionFormulasAndRanges : Prop :=
  ∀ raw : Field,
    (convH raw).toNat = 100 * raw.toNat / 65535 ∧ (convH raw).toNat ≤ 100 ∧
    (convT raw).toInt = ((175 * raw.toNat / 65535 : Nat) : Int) - 45 ∧
    -45 ≤ (convT raw).toInt ∧ (convT raw).toInt ≤ 130

/-- A converted temperature is 0xFFFF exactly for the raw values 16478 to 16851 (44_reading_assembler.md section 3;
92_eei_decisions.md D18). The conversion arithmetic is the spec's decision D18. -/
def Obligations.TemperaturesThatCollideWithTheSentinel : Prop :=
  ∀ raw : Field, convT raw = 0xFFFF#16 ↔ 16478 ≤ raw.toNat ∧ raw.toNat ≤ 16851

/-! ## Dispatch -/

/-- The case of a dispatch is chosen from MODE and the command's class by the table of the spec (R92). -/
def Obligations.DispatchCaseTable : Prop :=
  ∀ (cfg : Config) (c : CmdWord),
    (isCont cfg c = true → dispatchCase cfg .idle c = .enter) ∧
    (isCont cfg c = false → dispatchCase cfg .idle c = .direct) ∧
    (isCont cfg c = false → isFetch cfg c = false → dispatchCase cfg .continuous c = .halt) ∧
    (isCont cfg c = false → isFetch cfg c = true → dispatchCase cfg .continuous c = .direct) ∧
    (isCont cfg c = true → dispatchCase cfg .continuous c = .direct)

/-- Case 1: a continuous-family word in Idle enters Continuous and is sent once, whatever the status
(43_mode_controller.md section 3; 43_mode_controller.md section 4; 92_eei_decisions.md D6; notes/assumptions/12.md
(the working values); notes/assumptions/20.md (T0, FR and CLASS between requests); notes/assumptions/5.md (the event
log)). What T0, FR, CLASS and the working values hold after the response is the model's choice (log entries 12 and
20). That the events are kept in a log, each from its completion, is the model's choice (log entry 5). -/
def Obligations.ContinuousWordFromIdleEnters : Prop :=
  ∀ (s : State) (i : Instr) (c : CmdWord) (st : TransportStatus) (later : List (BitVec 3)),
    dispatchedWord s.cfg i = some c → s.seq = .ready → s.mode = .idle → isCont s.cfg c = true →
    s.statusIn = st.code :: later →
    exec i s = .next { s with
      mode := .continuous, stretch := .noStretch, lastCont := c, lastContWritten := true, seq := .ready,
      work := Work.clear, requests := s.requests.tail, statusIn := later,
      log := s.log ++ [sendEvent s c st, .response (.status st.code)] }

/-- Case 3: the word is sent once, STRETCH is stretch_of the word, and MODE does not change (43_mode_controller.md
section 3; 43_mode_controller.md section 5; 92_eei_decisions.md D6; notes/assumptions/12.md (the working values);
notes/assumptions/20.md (T0, FR and CLASS between requests); notes/assumptions/5.md (the event log)). What T0, FR,
CLASS and the working values hold after the response is the model's choice (log entries 12 and 20). That the events
are kept in a log, each from its completion, is the model's choice (log entry 5). -/
def Obligations.DirectDispatchSendsOnce : Prop :=
  ∀ (s : State) (i : Instr) (c : CmdWord) (st : TransportStatus) (later : List (BitVec 3)),
    dispatchedWord s.cfg i = some c → s.seq = .ready →
    ((s.mode = .idle ∧ isCont s.cfg c = false) ∨
      (s.mode = .continuous ∧ (isCont s.cfg c = true ∨ isFetch s.cfg c = true))) →
    s.statusIn = st.code :: later →
    exec i s = .next { s with
      stretch := stretchOf s.cfg c, lastCont := (if isCont s.cfg c = true then c else s.lastCont),
      lastContWritten := (isCont s.cfg c || s.lastContWritten), seq := .ready,
      work := Work.clear, requests := s.requests.tail, statusIn := later,
      log := s.log ++ [sendEvent s c st, .response (.status st.code)] }

/-- Case 2 with a failed stop: the stop's status is returned, the word is not sent and no register changes
(43_mode_controller.md section 3; 43_mode_controller.md section 4; notes/assumptions/12.md (the working values);
notes/assumptions/20.md (T0, FR and CLASS between requests); notes/assumptions/5.md (the event log)). What T0, FR,
CLASS and the working values hold after the response is the model's choice (log entries 12 and 20). That the events
are kept in a log, each from its completion, is the model's choice (log entry 5). -/
def Obligations.FailedStopAborts : Prop :=
  ∀ (s : State) (i : Instr) (c : CmdWord) (st : TransportStatus) (later : List (BitVec 3)),
    dispatchedWord s.cfg i = some c → s.seq = .ready → s.mode = .continuous →
    isCont s.cfg c = false → isFetch s.cfg c = false → st ≠ .success → s.statusIn = st.code :: later →
    exec i s = .next { s with
      seq := .ready, work := Work.clear, requests := s.requests.tail, statusIn := later,
      log := s.log ++ [sendEvent s s.cfg.cmdStop st, .response (.status st.code)] }

/-- Case 2 with a word that is no side command: stop, settle window, the word, and MODE is Idle (43_mode_controller.md
section 3; 92_eei_decisions.md D7, D9 and D11; notes/assumptions/12.md (the working values); notes/assumptions/20.md
(T0, FR and CLASS between requests); notes/assumptions/5.md (the event log)). What T0, FR, CLASS and the working
values hold after the response is the model's choice (log entries 12 and 20). That the status returned is that of the
word is the spec's decision D9. That the events are kept in a log, each from its completion, is the model's choice
(log entry 5). -/
def Obligations.LeavingContinuousStopsSettlesAndSends : Prop :=
  ∀ (s : State) (i : Instr) (c : CmdWord) (st : TransportStatus) (later : List (BitVec 3))
    (start late : Time) (early rest : List Time),
    dispatchedWord s.cfg i = some c → s.seq = .ready → s.mode = .continuous →
    isCont s.cfg c = false → isFetch s.cfg c = false → isSide s.cfg c = false →
    s.statusIn = TransportStatus.code .success :: st.code :: later → s.timeIn = start :: (early ++ late :: rest) →
    (∀ e ∈ early, e - start < s.cfg.settleMs) → s.cfg.settleMs ≤ late - start →
    exec i s = .next { s with
      mode := .idle, stretch := stretchOf s.cfg c, t0 := start, seq := .ready, work := Work.clear,
      requests := s.requests.tail, statusIn := later, timeIn := rest,
      log := s.log ++ ([sendEvent s s.cfg.cmdStop .success, .now start] ++ early.map .now ++
        [.now late, sendEvent s c st, .response (.status st.code)]) }

/-- Case 2 with a side command: stop, settle window, the command, then LAST_CONT, and MODE stays Continuous
(43_mode_controller.md section 3; 92_eei_decisions.md D8, D9, D10 and D11; notes/assumptions/12.md (the working
values); notes/assumptions/20.md (T0, FR and CLASS between requests); notes/assumptions/5.md (the event log)). What
T0, FR, CLASS and the working values hold after the response is the model's choice (log entries 12 and 20). The settle
wait is the spec's decision D11. That the events are kept in a log, each from its completion, is the model's choice
(log entry 5). -/
def Obligations.SideCommandIsFollowedByTheResume : Prop :=
  ∀ (s : State) (i : Instr) (c : CmdWord) (st resumed : TransportStatus) (later : List (BitVec 3))
    (start late : Time) (early rest : List Time),
    dispatchedWord s.cfg i = some c → s.seq = .ready → s.mode = .continuous → s.lastContWritten = true →
    isCont s.cfg c = false → isFetch s.cfg c = false → isSide s.cfg c = true →
    s.statusIn = TransportStatus.code .success :: st.code :: resumed.code :: later →
    s.timeIn = start :: (early ++ late :: rest) →
    (∀ e ∈ early, e - start < s.cfg.settleMs) → s.cfg.settleMs ≤ late - start →
    exec i s = .next { s with
      stretch := stretchOf s.cfg c, t0 := start, seq := .ready, work := Work.clear,
      requests := s.requests.tail, statusIn := later, timeIn := rest,
      log := s.log ++ ([sendEvent s s.cfg.cmdStop .success, .now start] ++ early.map .now ++
        [.now late, sendEvent s c st, sendEvent s s.lastCont resumed, .response (.status st.code)]) }

/-- A resume with LAST_CONT unwritten is the fault LastContUnwritten (10_state.md section 2; 60_exceptions.md section
7; 92_eei_decisions.md D5; 93_implementation_defined.md I4; 95_test_vectors.md V-X3; 92_eei_decisions.md D8 and D11;
notes/assumptions/8.md (the unwritten mark)). The fault is R22's and the spec's decision D5, the resume after any
status its decision D8, the settle wait D11; the mark that LAST_CONT is unwritten is the model's (log entry 8). -/
def Obligations.UnwrittenLastContFaultsAtTheResume : Prop :=
  ∀ (s : State) (i : Instr) (c : CmdWord) (st : TransportStatus) (later : List (BitVec 3))
    (start late : Time) (early rest : List Time),
    hostWord s.cfg i = some c → s.seq = .ready → s.mode = .continuous → s.lastContWritten = false →
    isCont s.cfg c = false → isFetch s.cfg c = false → isSide s.cfg c = true →
    s.statusIn = TransportStatus.code .success :: st.code :: later → s.timeIn = start :: (early ++ late :: rest) →
    (∀ e ∈ early, e - start < s.cfg.settleMs) → s.cfg.settleMs ≤ late - start →
    exec i s = .fault .lastContUnwritten

/-- While every sample is early the block holds in DSP_SETTLE and sends nothing (43_mode_controller.md section 3;
70_reset_and_hazards.md section 4; 92_eei_decisions.md D11; notes/assumptions/3.md (the answers of the environment);
notes/assumptions/4.md (the size of a step); notes/assumptions/5.md (the event log); notes/assumptions/20.md (T0, FR
and CLASS between requests)). The settle wait is the spec's decision D11; the samples as a list, the hold as a step
and the event log are the model's choices (log entries 3, 4 and 5), and so is what FR and CLASS keep from before the
request (log entry 20). -/
def Obligations.SettleWindowHoldsWhileSamplesAreEarly : Prop :=
  ∀ (s : State) (i : Instr) (c : CmdWord) (later : List (BitVec 3)) (start : Time) (early : List Time),
    dispatchedWord s.cfg i = some c → s.seq = .ready → s.mode = .continuous →
    isCont s.cfg c = false → isFetch s.cfg c = false →
    s.statusIn = TransportStatus.code .success :: later → s.timeIn = start :: early →
    (∀ e ∈ early, e - start < s.cfg.settleMs) →
    ∃ t, exec i s = .next t ∧ t.seq = .dsp .dispatch .settle ∧ t.t0 = start ∧ t.stretch = stretchOf s.cfg c ∧
      t.mode = .continuous ∧ t.lastCont = s.lastCont ∧ t.lastContWritten = s.lastContWritten ∧
      t.statusIn = later ∧ t.bytesIn = s.bytesIn ∧ t.timeIn = [] ∧ t.frame = s.frame ∧ t.cls = s.cls ∧
      t.addr = s.addr ∧ t.cfg = s.cfg ∧ t.requests = s.requests.tail ∧
      t.log = s.log ++ ([sendEvent s s.cfg.cmdStop .success, .now start] ++ early.map .now) ∧
      step t = .next t

/-- The settle window's elapsed time is (now - T0) modulo 2^32 (43_mode_controller.md section 3; 60_exceptions.md
section 6; 92_eei_decisions.md D11). The computation now - start is the spec's decision D11. -/
def Obligations.ElapsedTimeWrapsModulo : Prop :=
  ∀ (cfg : Config) (t0 now : Time),
    settled cfg t0 now = true ↔ cfg.settleMs.toNat ≤ (now.toNat + 2 ^ 32 - t0.toNat) % 2 ^ 32

/-- No dispatched command touches the frame buffer, CLASS, ADDR, the configuration or the bytes to come
(43_mode_controller.md section 1; 10_state.md section 3; notes/assumptions/20.md (T0, FR and CLASS between requests)).
That FR and CLASS keep across a dispatch what an earlier read left is the model's choice (log entry 20). -/
def Obligations.DispatchLeavesTheReadSideAlone : Prop :=
  ∀ (s t : State) (i : Instr) (c : CmdWord), dispatchedWord s.cfg i = some c → exec i s = .next t →
    t.frame = s.frame ∧ t.cls = s.cls ∧ t.addr = s.addr ∧ t.cfg = s.cfg ∧ t.bytesIn = s.bytesIn

/-! ## The measurement read -/

/-- READ_MEAS with Stretch, or with NoStretch in Idle, reads 6 bytes at once and answers them (44_reading_assembler.md
section 1; 92_eei_decisions.md D18, D19 and D26; notes/assumptions/12.md (the working values); notes/assumptions/20.md
(T0, FR and CLASS between requests); notes/assumptions/5.md (the event log)). What T0, FR, CLASS and the working
values hold after the response is the model's choice (log entries 12 and 20). What gates conversion and its arithmetic
are the spec's decisions D19 and D18. That the events are kept in a log, each from its completion, is the model's
choice (log entry 5). -/
def Obligations.DirectMeasurementRead : Prop :=
  ∀ (s : State) (convert : Bool) (rx : List Byte) (later : List (List Byte)), s.seq = .ready →
    (s.stretch = .stretch ∨ (s.stretch = .noStretch ∧ s.mode = .idle)) →
    s.bytesIn = rx :: later → rx.length ≤ 6 →
    exec (.readMeas convert) s = .next { s with
      frame := measFrame s.cfg rx, cls := measClass s.cfg rx, seq := .ready, work := Work.clear,
      requests := s.requests.tail, bytesIn := later,
      log := s.log ++ [.read s.addr 6 (decide (s.stretch ≠ .stretch)) rx,
        .response (.meas (measWord s.cfg convert rx))] }

/-- READ_MEAS with NoStretch in Continuous sends CMD_FETCH, and on Success reads 6 bytes with a stop
(44_reading_assembler.md sections 1 and 3; 92_eei_decisions.md D18, D19 and D26; notes/assumptions/12.md (the working
values); notes/assumptions/20.md (T0, FR and CLASS between requests); notes/assumptions/5.md (the event log)). What
T0, FR, CLASS and the working values hold after the response is the model's choice (log entries 12 and 20). What gates
conversion and its arithmetic are the spec's decisions D19 and D18. That the events are kept in a log, each from its
completion, is the model's choice (log entry 5). -/
def Obligations.FetchedMeasurementRead : Prop :=
  ∀ (s : State) (convert : Bool) (codes : List (BitVec 3)) (rx : List Byte) (later : List (List Byte)), s.seq = .ready →
    s.stretch = .noStretch → s.mode = .continuous → s.statusIn = TransportStatus.code .success :: codes →
    s.bytesIn = rx :: later → rx.length ≤ 6 →
    exec (.readMeas convert) s = .next { s with
      stretch := stretchOf s.cfg s.cfg.cmdFetch,
      lastCont := (if isCont s.cfg s.cfg.cmdFetch = true then s.cfg.cmdFetch else s.lastCont),
      lastContWritten := (isCont s.cfg s.cfg.cmdFetch || s.lastContWritten),
      frame := measFrame s.cfg rx, cls := measClass s.cfg rx, seq := .ready, work := Work.clear,
      requests := s.requests.tail, statusIn := codes, bytesIn := later,
      log := s.log ++ [sendEvent s s.cfg.cmdFetch .success, .read s.addr 6 true rx,
        .response (.meas (measWord s.cfg convert rx))] }

/-- READ_MEAS answers 0xFFFF twice when the read is skipped, the fetch fails or no byte comes (44_reading_assembler.md
sections 1 and 2; 92_eei_decisions.md D4, D6, D26 and D28; notes/assumptions/12.md (the working values);
notes/assumptions/20.md (T0, FR and CLASS between requests); notes/assumptions/5.md (the event log)). What T0, FR,
CLASS and the working values hold after the response is the model's choice (log entries 12 and 20). That the reserved
value of STRETCH is read as Unknown, that a failed fetch still writes STRETCH and that its status is not reported are
the spec's decisions D4, D6 and D28. That the events are kept in a log, each from its completion, is the model's
choice (log entry 5). -/
def Obligations.MeasurementWithoutBytesIsAllInvalid : Prop :=
  ∀ (s : State) (convert : Bool), s.seq = .ready → s.cfg.sentinel = 0xFF#8 →
    ((s.stretch = .unknown ∨ s.stretch = .reserved) →
      exec (.readMeas convert) s = .next { s with
        frame := sentinelFrame s.cfg, cls := .noneValid, seq := .ready, work := Work.clear,
        requests := s.requests.tail, log := s.log ++ [.response (.meas 0xFFFFFFFF#32)] }) ∧
    (∀ (st : TransportStatus) (codes : List (BitVec 3)), s.stretch = .noStretch → s.mode = .continuous →
      st ≠ .success → s.statusIn = st.code :: codes →
      exec (.readMeas convert) s = .next { s with
        stretch := stretchOf s.cfg s.cfg.cmdFetch,
        lastCont := (if isCont s.cfg s.cfg.cmdFetch = true then s.cfg.cmdFetch else s.lastCont),
        lastContWritten := (isCont s.cfg s.cfg.cmdFetch || s.lastContWritten),
        frame := sentinelFrame s.cfg, cls := .noneValid, seq := .ready, work := Work.clear,
        requests := s.requests.tail, statusIn := codes,
        log := s.log ++ [sendEvent s s.cfg.cmdFetch st, .response (.meas 0xFFFFFFFF#32)] }) ∧
    (∀ later : List (List Byte), (s.stretch = .stretch ∨ (s.stretch = .noStretch ∧ s.mode = .idle)) →
      s.bytesIn = [] :: later →
      exec (.readMeas convert) s = .next { s with
        frame := sentinelFrame s.cfg, cls := .noneValid, seq := .ready, work := Work.clear,
        requests := s.requests.tail, bytesIn := later,
        log := s.log ++ [.read s.addr 6 (decide (s.stretch ≠ .stretch)) [], .response (.meas 0xFFFFFFFF#32)] }) ∧
    (∀ (codes : List (BitVec 3)) (later : List (List Byte)), s.stretch = .noStretch → s.mode = .continuous →
      s.statusIn = TransportStatus.code .success :: codes → s.bytesIn = [] :: later →
      exec (.readMeas convert) s = .next { s with
        stretch := stretchOf s.cfg s.cfg.cmdFetch,
        lastCont := (if isCont s.cfg s.cfg.cmdFetch = true then s.cfg.cmdFetch else s.lastCont),
        lastContWritten := (isCont s.cfg s.cfg.cmdFetch || s.lastContWritten),
        frame := sentinelFrame s.cfg, cls := .noneValid, seq := .ready, work := Work.clear,
        requests := s.requests.tail, statusIn := codes, bytesIn := later,
        log := s.log ++ [sendEvent s s.cfg.cmdFetch .success, .read s.addr 6 true [],
          .response (.meas 0xFFFFFFFF#32)] })

/-- READ_MEAS changes no session register except through its nested fetch (44_reading_assembler.md section 3;
92_eei_decisions.md D6). That a failed fetch still writes STRETCH is the spec's decision D6. -/
def Obligations.MeasurementKeepsTheSession : Prop :=
  ∀ (s t : State) (convert : Bool), s.seq = .ready → exec (.readMeas convert) s = .next t →
    t.mode = s.mode ∧ t.addr = s.addr ∧
    (¬ (s.stretch = .noStretch ∧ s.mode = .continuous) →
      t.stretch = s.stretch ∧ t.lastCont = s.lastCont ∧ t.lastContWritten = s.lastContWritten) ∧
    ((s.stretch = .noStretch ∧ s.mode = .continuous) → t.stretch = stretchOf s.cfg s.cfg.cmdFetch ∧
      (isCont s.cfg s.cfg.cmdFetch = false → t.lastCont = s.lastCont ∧ t.lastContWritten = s.lastContWritten))

/-- The source's end-to-end example: two fields of 32768 answer 50 and 42 (44_reading_assembler.md section 3;
95_test_vectors.md V-E1; 92_eei_decisions.md D12, D13 and D18; notes/assumptions/1.md (the values of EX);
notes/assumptions/2.md (the presented words); notes/assumptions/3.md (the answers of the environment);
notes/assumptions/4.md (the size of a step); notes/assumptions/5.md (the event log); notes/assumptions/17.md (the
update step); notes/assumptions/20.md (CLASS after the response)). CLASS after the response, where R29 keeps none, is
the model's choice (log entry 20, DESIGN CHOICE), and so are the lists of words and answers, one request a step and
the event log (log entries 2 to 5). The words and the CRC of EX and the update step are the spec's general knowledge
(log entries 1 and 17, PRESUMED; D12, D13), the truncation to 42 its decision D18. -/
def Obligations.SourceEndToEndExample : Prop :=
  ∃ t, Host.Core.run Sys2Proof.core 2 ((State.reset.present [0x02130#19, 0x30000#19]).offer [0#3, 0#3]
      [[0xFB#8, 0x80#8, 0x00#8, 0xFB#8, 0x80#8, 0x00#8]] []) = .next t ∧
    t.mode = .continuous ∧ t.stretch = .noStretch ∧ t.lastCont = 0x2130#16 ∧ t.cls = .allValid ∧
    t.log.getLast? = some (.response (.meas 0x0032002A#32))

/-! ## The status read -/

/-- READ_STATUS on case 3 sends its word, and reads the register exactly after a successful CMD_STATUS_READ
(44_reading_assembler.md section 2; 92_eei_decisions.md D16 and D17; 92_eei_decisions.md D6; notes/assumptions/12.md
(the working values); notes/assumptions/20.md (T0, FR and CLASS between requests); notes/assumptions/5.md (the event
log)). What T0, FR, CLASS and the working values hold after the response is the model's choice (log entries 12 and
20). That a failed send still writes STRETCH and LAST_CONT, that the read asks for 3 bytes with release, and the start
value and the answer without a read are the spec's decisions D6, D16 and D17. That the events are kept in a log, each
from its completion, is the model's choice (log entry 5). -/
def Obligations.StatusReadOnTheDirectPath : Prop :=
  ∀ (s : State) (c : CmdWord) (st : TransportStatus) (codes : List (BitVec 3)), s.seq = .ready →
    ((s.mode = .idle ∧ isCont s.cfg c = false) ∨
      (s.mode = .continuous ∧ (isCont s.cfg c = true ∨ isFetch s.cfg c = true))) →
    s.statusIn = st.code :: codes →
    ((st = .success ∧ c = s.cfg.cmdStatusRead) →
      ∀ (rx : List Byte) (later : List (List Byte)), s.bytesIn = rx :: later → rx.length ≤ 3 →
      exec (.readStatus c) s = .next { s with
        stretch := stretchOf s.cfg c, lastCont := (if isCont s.cfg c = true then c else s.lastCont),
        lastContWritten := (isCont s.cfg c || s.lastContWritten),
        frame := regFrame s.cfg rx s.frame, cls := regClass s.cfg rx s.frame, seq := .ready, work := Work.clear,
        requests := s.requests.tail, statusIn := codes, bytesIn := later,
        log := s.log ++ [sendEvent s c .success, .read s.addr 3 true rx,
          .response (.value (field1 (regFrame s.cfg rx s.frame)))] }) ∧
    (¬ (st = .success ∧ c = s.cfg.cmdStatusRead) →
      exec (.readStatus c) s = .next { s with
        stretch := stretchOf s.cfg c, lastCont := (if isCont s.cfg c = true then c else s.lastCont),
        lastContWritten := (isCont s.cfg c || s.lastContWritten),
        frame := regStart s.cfg s.frame, cls := .noneValid, seq := .ready, work := Work.clear,
        requests := s.requests.tail, statusIn := codes,
        log := s.log ++ [sendEvent s c st, .response (.value (s.cfg.sentinel ++ s.cfg.sentinel))] })

/-- READ_STATUS is the dispatch of its word, and then the register read if that was a successful status read
(44_reading_assembler.md section 2; 43_mode_controller.md section 1; 92_eei_decisions.md D9, D16 and D17;
notes/assumptions/12.md (the working values); notes/assumptions/20.md (T0, FR and CLASS between requests);
notes/assumptions/5.md (the event log)). What T0, FR, CLASS and the working values hold after the response is the
model's choice (log entries 12 and 20). Which status counts, the read's 3 bytes with release, and the start value and
the answer without a read are the spec's decisions D9, D16 and D17. That the events are kept in a log, each from its
completion, is the model's choice (log entry 5). -/
def Obligations.StatusReadIsDispatchThenRead : Prop :=
  ∀ (s t : State) (c : CmdWord) (code : BitVec 3) (events : List Event), s.seq = .ready →
    exec (.dispatch c) s = .next t → t.seq = .ready → t.log = events ++ [.response (.status code)] →
    ((code = TransportStatus.code .success ∧ isStatusRead s.cfg c = true) →
      ∀ (rx : List Byte) (later : List (List Byte)), s.bytesIn = rx :: later → rx.length ≤ 3 →
      exec (.readStatus c) s = .next { t with
        frame := regFrame s.cfg rx s.frame, cls := regClass s.cfg rx s.frame, bytesIn := later,
        log := events ++ [.read s.addr 3 true rx, .response (.value (field1 (regFrame s.cfg rx s.frame)))] }) ∧
    (¬ (code = TransportStatus.code .success ∧ isStatusRead s.cfg c = true) →
      exec (.readStatus c) s = .next { t with
        frame := regStart s.cfg s.frame, cls := .noneValid,
        log := events ++ [.response (.value (s.cfg.sentinel ++ s.cfg.sentinel))] })

/-- READ_STATUS CMD_STATUS_READ in Continuous reads its frame after the resume has been sent (44_reading_assembler.md
section 2; 70_reset_and_hazards.md section 3; 92_eei_decisions.md D8 to D11, D16 and D17; notes/assumptions/12.md (the
working values); notes/assumptions/20.md (T0, FR and CLASS between requests); notes/assumptions/5.md (the event log)).
What T0, FR, CLASS and the working values hold after the response is the model's choice (log entries 12 and 20). The
resume, whose status does not count, the settle wait, the read's 3 bytes with release and the register frame's start
value are the spec's decisions D8 to D11, D16 and D17. That the events are kept in a log, each from its completion, is
the model's choice (log entry 5). -/
def Obligations.StatusReadInContinuousReadsAfterTheResume : Prop :=
  ∀ (s : State) (resumed : TransportStatus) (codes : List (BitVec 3)) (rx : List Byte) (later : List (List Byte))
    (start late : Time) (rest : List Time), s.seq = .ready → s.mode = .continuous → s.lastContWritten = true →
    isCont s.cfg s.cfg.cmdStatusRead = false → isFetch s.cfg s.cfg.cmdStatusRead = false →
    s.statusIn = TransportStatus.code .success :: TransportStatus.code .success :: resumed.code :: codes →
    s.timeIn = start :: late :: rest → s.cfg.settleMs ≤ late - start → s.bytesIn = rx :: later → rx.length ≤ 3 →
    exec (.readStatus s.cfg.cmdStatusRead) s = .next { s with
      stretch := stretchOf s.cfg s.cfg.cmdStatusRead, t0 := start,
      frame := regFrame s.cfg rx s.frame, cls := regClass s.cfg rx s.frame, seq := .ready, work := Work.clear,
      requests := s.requests.tail, statusIn := codes, bytesIn := later, timeIn := rest,
      log := s.log ++ [sendEvent s s.cfg.cmdStop .success, .now start, .now late,
        sendEvent s s.cfg.cmdStatusRead .success, sendEvent s s.lastCont resumed, .read s.addr 3 true rx,
        .response (.value (field1 (regFrame s.cfg rx s.frame)))] }

/-! ## Invariants and rules of the whole machine -/

/-- Every step keeps it so that LAST_CONT is written whenever the resume could read it (10_state.md section 2;
43_mode_controller.md section 3; notes/assumptions/8.md (the unwritten mark)). The mark that LAST_CONT is written is
the model's (log entry 8). -/
def Obligations.StepKeepsLastContSafe : Prop :=
  ∀ s t : State, LastContSafe s → step s = .next t → LastContSafe t

/-- From a state in which LAST_CONT is safe no step faults (10_state.md section 2; 60_exceptions.md section 1;
92_eei_decisions.md D5; notes/assumptions/8.md (the unwritten mark)). The fault is R22's and the spec's decision D5;
the mark that LAST_CONT is written is the model's (log entry 8). -/
def Obligations.SafeStatesNeverFault : Prop :=
  ∀ (s : State) (f : Fault), LastContSafe s → step s ≠ .fault f

/-- No run from reset faults, whatever the host presents and the environment answers (10_state.md section 2;
60_exceptions.md section 7; 92_eei_decisions.md D5; notes/assumptions/2.md (the presented words);
notes/assumptions/3.md (the answers of the environment); notes/assumptions/8.md (the unwritten mark)). The fault is
R22's and the spec's decision D5; the mark, and the lists of words and answers, are the model's (log entries 8, 2 and
3). -/
def Obligations.NoRunFromResetFaults : Prop :=
  ∀ (cfg : Config) (words : List ReqWord) (codes : List (BitVec 3)) (reads : List (List Byte)) (times : List Time)
    (k : Nat) (f : Fault),
    Host.Core.run Sys2Proof.core k (((State.resetOf cfg).present words).offer codes reads times) ≠ .fault f

/-- Under WF2 every step keeps Continuous free of the stretch preference, but inside the settle window of a leaving
dispatch (70_reset_and_hazards.md section 3; 43_mode_controller.md section 3; 92_eei_decisions.md D4 and D15;
notes/assumptions/19.md (the exception inside a request)). The exception inside a request is the model's reading of
R95 and R97 (log entry 19); WF2 is the spec's decision D15, and the values of STRETCH its decision D4. -/
def Obligations.StepKeepsStretchSafe : Prop :=
  ∀ s t : State, s.cfg.WF2 → StretchSafe s → step s = .next t → StretchSafe t

/-- Under WF2, between requests of any run from reset, Continuous implies NoStretch and STRETCH is never Unknown
(70_reset_and_hazards.md section 3; 92_eei_decisions.md D4 and D15; notes/assumptions/2.md (the presented words);
notes/assumptions/3.md (the answers of the environment); notes/assumptions/19.md (states between requests)). R151
speaks of every reachable state; the restriction to states between requests, and the lists of words and answers, are
the model's (log entries 19, 2 and 3); WF2 is the spec's decision D15, and the values of STRETCH its decision D4. -/
def Obligations.ContinuousIsNeverStretchingBetweenRequests : Prop :=
  ∀ (cfg : Config) (words : List ReqWord) (codes : List (BitVec 3)) (reads : List (List Byte)) (times : List Time)
    (k : Nat) (t : State), cfg.WF2 →
    Host.Core.run Sys2Proof.core k (((State.resetOf cfg).present words).offer codes reads times) = .next t →
    t.seq = .ready → (t.mode = .continuous → t.stretch = .noStretch) ∧ t.stretch ≠ .unknown ∧ t.stretch ≠ .reserved

/-- No step changes ADDR or the configuration (10_state.md section 2; 20_memory.md section 5; notes/assumptions/1.md
(the configuration in the state)). That the configuration is carried in the state is the model's choice (log entry 1).
-/
def Obligations.NoStepChangesAddrOrTheConfiguration : Prop :=
  ∀ s t : State, step s = .next t → t.addr = s.addr ∧ t.cfg = s.cfg ∧ (AddrFixed s → AddrFixed t)

/-- A step only appends events, each write and read is addressed to ADDR, and each read asks for 6 or 3 bytes and gets
no more (20_memory.md sections 1 and 2; 44_reading_assembler.md section 2; 92_eei_decisions.md D16, D22 and D26;
notes/assumptions/5.md (the event log)). That a read of 3 bytes has release = true is R118's, the spec's decision D16
(44_reading_assembler.md section 2), and that a measurement read asks for exactly 6 bytes its decision D26; no answer
longer than asked is recorded because it is refused, its decision D22. That the events are kept in a log, each from
its completion, is the model's choice (log entry 5). -/
def Obligations.PortEventsKeepTheirContract : Prop :=
  ∀ s t : State, step s = .next t → ∃ events, t.log = s.log ++ events ∧
    (∀ a b0 b1 st, Event.write a b0 b1 st ∈ events → a = s.addr) ∧
    (∀ a n release rx, Event.read a n release rx ∈ events →
      a = s.addr ∧ rx.length ≤ n ∧ (n = 6 ∨ (n = 3 ∧ release = true)))

/-- A request sends only the host's word, CMD_STOP, CMD_FETCH and LAST_CONT, most significant byte first (20_memory.md
sections 1 and 3; 92_eei_decisions.md D10; notes/assumptions/5.md (the event log)). That the resume sends LAST_CONT as
it was before is the spec's decision D10. That the events are kept in a log, each from its completion, is the model's
choice (log entry 5). -/
def Obligations.OnlyFourKindsOfWordAreSent : Prop :=
  ∀ (s t : State) (i : Instr), s.seq = .ready → exec i s = .next t → ∃ events, t.log = s.log ++ events ∧
    ∀ a b0 b1 st, Event.write a b0 b1 st ∈ events →
      ∃ c : CmdWord, b0 = hi c ∧ b1 = lo c ∧
        (c = s.cfg.cmdStop ∨ c = s.cfg.cmdFetch ∨ c = s.lastCont ∨ hostWord s.cfg i = some c)

/-- MODE changes only as the transition table of the spec says (60_exceptions.md section 5; 92_eei_decisions.md D6 and
D7; notes/assumptions/5.md (the event log)). That MODE changes whatever the status of the word's own send is the
spec's decisions D6 and D7. That the events are kept in a log, each from its completion, is the model's choice (log
entry 5). -/
def Obligations.ModeChangesOnlyByDispatch : Prop :=
  ∀ (s t : State) (i : Instr), s.seq = .ready → exec i s = .next t →
    (s.mode = .idle → t.mode = .continuous → ∃ c, hostWord s.cfg i = some c ∧ isCont s.cfg c = true) ∧
    (s.mode = .continuous → t.mode = .idle → ∃ c, hostWord s.cfg i = some c ∧ isCont s.cfg c = false ∧
      isFetch s.cfg c = false ∧ isSide s.cfg c = false ∧
      ∃ events, t.log = s.log ++ sendEvent s s.cfg.cmdStop .success :: events)

/-- What FR, CLASS and T0 hold between requests changes nothing but themselves (10_state.md section 3;
92_eei_decisions.md D20; notes/assumptions/9.md (T0 at reset); notes/assumptions/10.md (FR at reset);
notes/assumptions/11.md (CLASS at reset); notes/assumptions/20.md (T0, FR and CLASS between requests)). That FR, CLASS
and T0 are fields with a value between requests is the model's choice (log entries 9, 10, 11 and 20). -/
def Obligations.FrameResidueIsNotObservable : Prop :=
  ∀ (s t : State) (i : Instr) (fr : Frame) (c : Classification) (t0 : Time), s.seq = .ready →
    exec i s = .next t → t.seq = .ready →
    ∃ fr' c' t0', exec i { s with frame := fr, cls := c, t0 := t0 } =
      .next { t with frame := fr', cls := c', t0 := t0' }

/-- A contract breaker among the later answers of a request ends its one step in refuse(TransportContract)
(20_memory.md section 2; 43_mode_controller.md section 3; 44_reading_assembler.md section 2; 60_exceptions.md section
7; 92_eei_decisions.md D8, D9, D11, D16 and D22; notes/assumptions/3.md (the answers of the environment);
notes/assumptions/4.md (the size of a step); notes/assumptions/16.md (the 3-bit status)). The refusal is the spec's
decision D22, the order of the sends its decisions D8, D9 and D11, the register read's 3 bytes D16; the lists of
answers, the size of a step and the 3-bit status are the model's (log entries 3, 4 and 16). -/
def Obligations.ContractBreakersInsideARequestAreRefused : Prop :=
  (∀ (s : State) (i : Instr) (c : CmdWord) (start late : Time) (early rest : List Time),
    hostWord s.cfg i = some c → s.seq = .ready → s.mode = .continuous → isCont s.cfg c = false → isFetch s.cfg c = false →
    s.timeIn = start :: (early ++ late :: rest) → (∀ e ∈ early, e - start < s.cfg.settleMs) →
    s.cfg.settleMs ≤ late - start →
    (∀ (code : BitVec 3) (later : List (BitVec 3)), (code = 6#3 ∨ code = 7#3) →
      s.statusIn = TransportStatus.code .success :: code :: later → exec i s = .refused .transportContract) ∧
    (∀ (st : TransportStatus) (code : BitVec 3) (later : List (BitVec 3)), (code = 6#3 ∨ code = 7#3) →
      isSide s.cfg c = true → s.lastContWritten = true →
      s.statusIn = TransportStatus.code .success :: st.code :: code :: later → exec i s = .refused .transportContract)) ∧
  (∀ (s : State) (codes : List (BitVec 3)) (rx : List Byte) (later : List (List Byte)), s.seq = .ready →
    s.bytesIn = rx :: later → 3 < rx.length →
    (((s.mode = .idle ∧ isCont s.cfg s.cfg.cmdStatusRead = false) ∨
        (s.mode = .continuous ∧
          (isCont s.cfg s.cfg.cmdStatusRead = true ∨ isFetch s.cfg s.cfg.cmdStatusRead = true))) →
      s.statusIn = TransportStatus.code .success :: codes →
      exec (.readStatus s.cfg.cmdStatusRead) s = .refused .transportContract) ∧
    (∀ (resumed : TransportStatus) (start late : Time) (early rest : List Time), s.mode = .continuous →
      s.lastContWritten = true → isCont s.cfg s.cfg.cmdStatusRead = false → isFetch s.cfg s.cfg.cmdStatusRead = false →
      s.statusIn = TransportStatus.code .success :: TransportStatus.code .success :: resumed.code :: codes →
      s.timeIn = start :: (early ++ late :: rest) → (∀ e ∈ early, e - start < s.cfg.settleMs) →
      s.cfg.settleMs ≤ late - start → exec (.readStatus s.cfg.cmdStatusRead) s = .refused .transportContract))
end

