-- ==== Sys2Proof/Laws/Encoding.lean ====
section
/-! SUPPORT. The fields of a request word and of a command word, read back from the word they make up and put back into it. -/

namespace Sys2Proof

/-- Two bytes side by side, as a number. -/
theorem append_bytes_toNat (a b : Byte) : BitVec.toNat (a ++ b : Field) = 256 * a.toNat + b.toNat :=
  (BitVec.toNat_append a b).trans (by rw [← Nat.shiftLeft_add_eq_or_of_lt b.isLt, Nat.shiftLeft_eq]; omega)

/-- Bit `i` of a request word made of its three fields. -/
theorem requestWord_getLsbD (op : BitVec 2) (cv : Bool) (cmd : CmdWord) (i : Nat) :
    (requestWord op cv cmd).getLsbD i =
      if i < 16 then cmd.getLsbD i else if i = 16 then cv else op.getLsbD (i - 17) := by
  have h1 : (requestWord op cv cmd).getLsbD i =
      if i < 17 then (BitVec.ofBool cv ++ cmd).getLsbD i else op.getLsbD (i - 17) :=
    BitVec.getLsbD_append
  have h2 : (BitVec.ofBool cv ++ cmd).getLsbD i =
      if i < 16 then cmd.getLsbD i else (BitVec.ofBool cv).getLsbD (i - 16) := BitVec.getLsbD_append
  rw [h1, h2]
  by_cases h : i < 16
  · simp [h, show i < 17 by omega]
  · by_cases h' : i = 16
    · subst h'; simp
    · simp only [h, h', if_false, show ¬ i < 17 by omega]

@[simp] theorem reqOp_requestWord (op : BitVec 2) (cv : Bool) (cmd : CmdWord) : reqOp (requestWord op cv cmd) = op := by
  apply BitVec.eq_of_getLsbD_eq
  intro i hi
  simp [reqOp, requestWord_getLsbD, hi, show ¬ 17 + i < 16 by omega, show ¬ 17 + i = 16 by omega]

@[simp] theorem reqCv_requestWord (op : BitVec 2) (cv : Bool) (cmd : CmdWord) : reqCv (requestWord op cv cmd) = cv := by
  unfold reqCv
  rw [requestWord_getLsbD]
  rfl

@[simp] theorem reqCmd_requestWord (op : BitVec 2) (cv : Bool) (cmd : CmdWord) :
    reqCmd (requestWord op cv cmd) = cmd := by
  apply BitVec.eq_of_getLsbD_eq
  intro i hi
  simp only [reqCmd, BitVec.getLsbD_extractLsb', requestWord_getLsbD]
  simp [hi]

/-- A request word is the word of its three fields. -/
theorem requestWord_fields (w : ReqWord) : requestWord (reqOp w) (reqCv w) (reqCmd w) = w := by
  apply BitVec.eq_of_getLsbD_eq
  intro i hi
  rw [requestWord_getLsbD]
  by_cases h : i < 16
  · simp only [h, if_true, reqCmd, BitVec.getLsbD_extractLsb']
    simp
  · by_cases h' : i = 16
    · subst h'; simp [reqCv]
    · simp only [h, h', if_false, reqOp, BitVec.getLsbD_extractLsb', show 17 + (i - 17) = i by omega]
      simp only [show i - 17 < 2 by omega, decide_true, Bool.true_and]

/-- Bit `i` of a word with `op` 3. -/
theorem reservedWord_getLsbD (bits : BitVec 17) (i : Nat) :
    (3#2 ++ bits : ReqWord).getLsbD i = if i < 17 then bits.getLsbD i else (3#2).getLsbD (i - 17) := by
  have h : (3#2 ++ bits : ReqWord).getLsbD i = if i < 17 then bits.getLsbD i else (3#2).getLsbD (i - 17) :=
    BitVec.getLsbD_append
  exact h

@[simp] theorem reqOp_reserved (bits : BitVec 17) : reqOp (3#2 ++ bits) = 3#2 := by
  apply BitVec.eq_of_getLsbD_eq
  intro i hi
  simp only [reqOp, BitVec.getLsbD_extractLsb', reservedWord_getLsbD, show ¬ 17 + i < 17 by omega, if_false,
    show 17 + i - 17 = i by omega]
  simp [hi]

@[simp] theorem reqRest_reserved (bits : BitVec 17) : reqRest (3#2 ++ bits) = bits := by
  apply BitVec.eq_of_getLsbD_eq
  intro i hi
  simp only [reqRest, BitVec.getLsbD_extractLsb', reservedWord_getLsbD]
  simp [hi]

/-- A request word is its `op` followed by the other seventeen bits. -/
theorem reservedWord_fields {w : ReqWord} (h : reqOp w = 3#2) : (3#2 ++ reqRest w : ReqWord) = w := by
  apply BitVec.eq_of_getLsbD_eq
  intro i hi
  rw [reservedWord_getLsbD, ← h]
  by_cases h' : i < 17
  · simp only [h', if_true, reqRest, BitVec.getLsbD_extractLsb']
    simp
  · simp only [h', if_false, reqOp, BitVec.getLsbD_extractLsb', show 17 + (i - 17) = i by omega]
    simp only [show i - 17 < 2 by omega, decide_true, Bool.true_and]

/-! ## Command rows -/

/-- A word decodes to a named row with that word, or to the default row where no row has it. -/
theorem decodeCommand_cases (cfg : Config) (c : CmdWord) :
    (c, decodeCommand cfg c) ∈ commandRows cfg ∨
    (decodeCommand cfg c = .other c ∧ ∀ row ∈ commandRows cfg, row.1 ≠ c) := by
  unfold decodeCommand
  split
  · rename_i row h
    have h1 : row.1 = c := by simpa using List.find?_some h
    exact .inl (h1 ▸ List.mem_of_find?_eq_some h)
  · rename_i h
    exact .inr ⟨rfl, by simpa using h⟩

/-- A row's word dispatches as that row (R66, R67). -/
theorem dispatchedWord_row {cfg : Config} {row : CmdWord × Instr} (h : row ∈ commandRows cfg) :
    Machine.dispatchedWord cfg row.2 = some row.1 := by
  simp only [commandRows, List.mem_cons, List.not_mem_nil, or_false] at h
  rcases h with rfl | rfl | rfl | rfl | rfl | rfl | rfl | rfl | rfl | rfl | rfl | rfl <;> rfl

/-- The row a command word decodes to dispatches that word (R66, R67). -/
theorem dispatchedWord_decodeCommand (cfg : Config) (c : CmdWord) :
    Machine.dispatchedWord cfg (decodeCommand cfg c) = some c := by
  rcases decodeCommand_cases cfg c with h | ⟨h, _⟩
  · exact dispatchedWord_row h
  · rw [h]; rfl

/-- Every command instruction but the default row is a named row with the word it is encoded as. -/
theorem mem_commandRows {cfg : Config} {w : CmdWord} {i : Instr} (h : encode cfg i = .command w)
    (hi : ∀ c, i ≠ .other c) : (w, i) ∈ commandRows cfg := by
  cases i with
  | dispatch c => cases h
  | readMeas c => cases h
  | readStatus c => cases h
  | reserved b => cases h
  | other c => exact absurd rfl (hi c)
  | _ => cases h; simp [commandRows]

/-- A row's word decodes to it, where no two rows have one word (WF1, R10). -/
theorem decodeCommand_row {cfg : Config} (hw : cfg.WF1) {row : CmdWord × Instr} (h : row ∈ commandRows cfg) :
    decodeCommand cfg row.1 = row.2 := by
  rcases decodeCommand_cases cfg row.1 with h' | ⟨_, h'⟩
  · have hn : ((commandRows cfg).map Prod.fst).Nodup := hw
    have := List.inj_on_of_nodup_map hn h' h rfl
    exact congrArg Prod.snd this
  · exact absurd rfl (h' row h)

end Sys2Proof
end

