-- ==== Sys2Proof/Laws/Frame.lean ====
section
/-! SUPPORT. The frame buffer byte by byte, and the settle scan as a whole. -/

namespace Sys2Proof.Machine

@[simp] theorem fillSentinel_get (cfg : Config) (first past : Nat) (fr : Frame) (j : Nat) (hj : j < 6) :
    (fillSentinel cfg first past fr)[j] = if first ≤ j ∧ j < past then cfg.sentinel else fr[j] := by
  simp [fillSentinel]

@[simp] theorem place_get (rx : List Byte) (fr : Frame) (j : Nat) (hj : j < 6) :
    (place rx fr)[j] = rx.getD j fr[j] := by
  simp [place]

@[simp] theorem place_nil (fr : Frame) : place [] fr = fr := by
  ext j hj; simp

/-- The six sentinel bytes a measurement read starts from do not depend on what the buffer held. -/
theorem fillSentinel_six (cfg : Config) (fr : Frame) : fillSentinel cfg 0 6 fr = sentinelFrame cfg := by
  ext j hj; simp [sentinelFrame, hj]

theorem fillSentinel_three (cfg : Config) (fr : Frame) : fillSentinel cfg 0 3 fr = regStart cfg fr := by
  ext j hj
  match j, hj with
  | 0, _ => simp [regStart]
  | 1, _ => simp [regStart]
  | 2, _ => simp [regStart]
  | 3, _ => simp [regStart]
  | 4, _ => simp [regStart]
  | 5, _ => simp [regStart]

/-- A settle scan that meets a late enough sample after early ones takes exactly those. -/
theorem settleScan_late {cfg : Config} {t0 t : Time} {early later : List Time}
    (he : ∀ e ∈ early, settled cfg t0 e = false) (ht : settled cfg t0 t = true) :
    settleScan cfg t0 (early ++ t :: later) = (early ++ [t], some later) := by
  induction early with
  | nil => simp [settleScan, ht]
  | cons e es ih =>
    have h1 : settled cfg t0 e = false := he e (by simp)
    simp [settleScan, h1, ih fun x hx => he x (by simp [hx])]

/-- A settle scan over early samples only takes them all, and holds. -/
theorem settleScan_early {cfg : Config} {t0 : Time} {early : List Time}
    (he : ∀ e ∈ early, settled cfg t0 e = false) : settleScan cfg t0 early = (early, none) := by
  induction early with
  | nil => rfl
  | cons e es ih =>
    have h1 : settled cfg t0 e = false := he e (by simp)
    simp [settleScan, h1, ih fun x hx => he x (by simp [hx])]

/-- Everything a settle scan can do. -/
theorem settleScan_cases (cfg : Config) (t0 : Time) (l : List Time) :
    ((∀ e ∈ l, settled cfg t0 e = false) ∧ settleScan cfg t0 l = (l, none)) ∨
    ∃ early t later, l = early ++ t :: later ∧ (∀ e ∈ early, settled cfg t0 e = false) ∧
      settled cfg t0 t = true ∧ settleScan cfg t0 l = (early ++ [t], some later) := by
  induction l with
  | nil => exact .inl ⟨by simp, rfl⟩
  | cons x xs ih =>
    by_cases hx : settled cfg t0 x = true
    · exact .inr ⟨[], x, xs, rfl, by simp, hx, by simp [settleScan, hx]⟩
    · have hx' : settled cfg t0 x = false := by simpa using hx
      rcases ih with ⟨h, _⟩ | ⟨early, t, later, rfl, he, ht, _⟩
      · exact .inl ⟨by simpa [hx'] using h, settleScan_early (by simpa [hx'] using h)⟩
      · have he' : ∀ e ∈ x :: early, settled cfg t0 e = false := by simpa [hx'] using he
        exact .inr ⟨x :: early, t, later, rfl, he', ht, settleScan_late he' ht⟩

end Sys2Proof.Machine
end

