-- ==== Sys2Proof/Laws/State.lean ====
section
/-! SUPPORT. What each update of the state leaves and writes, field by field: one lemma per field per update, so that no
proof unfolds an update. -/

namespace Sys2Proof.Machine

section
variable (s : State) (x : Mode)
@[simp] theorem State.setMode_cfg : (s.setMode x).cfg = s.cfg := rfl
@[simp] theorem State.setMode_mode : (s.setMode x).mode = x := rfl
@[simp] theorem State.setMode_stretch : (s.setMode x).stretch = s.stretch := rfl
@[simp] theorem State.setMode_lastCont : (s.setMode x).lastCont = s.lastCont := rfl
@[simp] theorem State.setMode_lastContWritten : (s.setMode x).lastContWritten = s.lastContWritten := rfl
@[simp] theorem State.setMode_addr : (s.setMode x).addr = s.addr := rfl
@[simp] theorem State.setMode_seq : (s.setMode x).seq = s.seq := rfl
@[simp] theorem State.setMode_t0 : (s.setMode x).t0 = s.t0 := rfl
@[simp] theorem State.setMode_frame : (s.setMode x).frame = s.frame := rfl
@[simp] theorem State.setMode_cls : (s.setMode x).cls = s.cls := rfl
@[simp] theorem State.setMode_work : (s.setMode x).work = s.work := rfl
@[simp] theorem State.setMode_requests : (s.setMode x).requests = s.requests := rfl
@[simp] theorem State.setMode_statusIn : (s.setMode x).statusIn = s.statusIn := rfl
@[simp] theorem State.setMode_bytesIn : (s.setMode x).bytesIn = s.bytesIn := rfl
@[simp] theorem State.setMode_timeIn : (s.setMode x).timeIn = s.timeIn := rfl
@[simp] theorem State.setMode_log : (s.setMode x).log = s.log := rfl
end

section
variable (s : State) (x : Stretch)
@[simp] theorem State.setStretch_cfg : (s.setStretch x).cfg = s.cfg := rfl
@[simp] theorem State.setStretch_mode : (s.setStretch x).mode = s.mode := rfl
@[simp] theorem State.setStretch_stretch : (s.setStretch x).stretch = x := rfl
@[simp] theorem State.setStretch_lastCont : (s.setStretch x).lastCont = s.lastCont := rfl
@[simp] theorem State.setStretch_lastContWritten : (s.setStretch x).lastContWritten = s.lastContWritten := rfl
@[simp] theorem State.setStretch_addr : (s.setStretch x).addr = s.addr := rfl
@[simp] theorem State.setStretch_seq : (s.setStretch x).seq = s.seq := rfl
@[simp] theorem State.setStretch_t0 : (s.setStretch x).t0 = s.t0 := rfl
@[simp] theorem State.setStretch_frame : (s.setStretch x).frame = s.frame := rfl
@[simp] theorem State.setStretch_cls : (s.setStretch x).cls = s.cls := rfl
@[simp] theorem State.setStretch_work : (s.setStretch x).work = s.work := rfl
@[simp] theorem State.setStretch_requests : (s.setStretch x).requests = s.requests := rfl
@[simp] theorem State.setStretch_statusIn : (s.setStretch x).statusIn = s.statusIn := rfl
@[simp] theorem State.setStretch_bytesIn : (s.setStretch x).bytesIn = s.bytesIn := rfl
@[simp] theorem State.setStretch_timeIn : (s.setStretch x).timeIn = s.timeIn := rfl
@[simp] theorem State.setStretch_log : (s.setStretch x).log = s.log := rfl
end

section
variable (s : State) (x : CmdWord)
@[simp] theorem State.setLastCont_cfg : (s.setLastCont x).cfg = s.cfg := rfl
@[simp] theorem State.setLastCont_mode : (s.setLastCont x).mode = s.mode := rfl
@[simp] theorem State.setLastCont_stretch : (s.setLastCont x).stretch = s.stretch := rfl
@[simp] theorem State.setLastCont_lastCont : (s.setLastCont x).lastCont = x := rfl
@[simp] theorem State.setLastCont_lastContWritten : (s.setLastCont x).lastContWritten = true := rfl
@[simp] theorem State.setLastCont_addr : (s.setLastCont x).addr = s.addr := rfl
@[simp] theorem State.setLastCont_seq : (s.setLastCont x).seq = s.seq := rfl
@[simp] theorem State.setLastCont_t0 : (s.setLastCont x).t0 = s.t0 := rfl
@[simp] theorem State.setLastCont_frame : (s.setLastCont x).frame = s.frame := rfl
@[simp] theorem State.setLastCont_cls : (s.setLastCont x).cls = s.cls := rfl
@[simp] theorem State.setLastCont_work : (s.setLastCont x).work = s.work := rfl
@[simp] theorem State.setLastCont_requests : (s.setLastCont x).requests = s.requests := rfl
@[simp] theorem State.setLastCont_statusIn : (s.setLastCont x).statusIn = s.statusIn := rfl
@[simp] theorem State.setLastCont_bytesIn : (s.setLastCont x).bytesIn = s.bytesIn := rfl
@[simp] theorem State.setLastCont_timeIn : (s.setLastCont x).timeIn = s.timeIn := rfl
@[simp] theorem State.setLastCont_log : (s.setLastCont x).log = s.log := rfl
end

section
variable (s : State) (x : Seq)
@[simp] theorem State.goto_cfg : (s.goto x).cfg = s.cfg := rfl
@[simp] theorem State.goto_mode : (s.goto x).mode = s.mode := rfl
@[simp] theorem State.goto_stretch : (s.goto x).stretch = s.stretch := rfl
@[simp] theorem State.goto_lastCont : (s.goto x).lastCont = s.lastCont := rfl
@[simp] theorem State.goto_lastContWritten : (s.goto x).lastContWritten = s.lastContWritten := rfl
@[simp] theorem State.goto_addr : (s.goto x).addr = s.addr := rfl
@[simp] theorem State.goto_seq : (s.goto x).seq = x := rfl
@[simp] theorem State.goto_t0 : (s.goto x).t0 = s.t0 := rfl
@[simp] theorem State.goto_frame : (s.goto x).frame = s.frame := rfl
@[simp] theorem State.goto_cls : (s.goto x).cls = s.cls := rfl
@[simp] theorem State.goto_work : (s.goto x).work = s.work := rfl
@[simp] theorem State.goto_requests : (s.goto x).requests = s.requests := rfl
@[simp] theorem State.goto_statusIn : (s.goto x).statusIn = s.statusIn := rfl
@[simp] theorem State.goto_bytesIn : (s.goto x).bytesIn = s.bytesIn := rfl
@[simp] theorem State.goto_timeIn : (s.goto x).timeIn = s.timeIn := rfl
@[simp] theorem State.goto_log : (s.goto x).log = s.log := rfl
end

section
variable (s : State) (x : Time)
@[simp] theorem State.setT0_cfg : (s.setT0 x).cfg = s.cfg := rfl
@[simp] theorem State.setT0_mode : (s.setT0 x).mode = s.mode := rfl
@[simp] theorem State.setT0_stretch : (s.setT0 x).stretch = s.stretch := rfl
@[simp] theorem State.setT0_lastCont : (s.setT0 x).lastCont = s.lastCont := rfl
@[simp] theorem State.setT0_lastContWritten : (s.setT0 x).lastContWritten = s.lastContWritten := rfl
@[simp] theorem State.setT0_addr : (s.setT0 x).addr = s.addr := rfl
@[simp] theorem State.setT0_seq : (s.setT0 x).seq = s.seq := rfl
@[simp] theorem State.setT0_t0 : (s.setT0 x).t0 = x := rfl
@[simp] theorem State.setT0_frame : (s.setT0 x).frame = s.frame := rfl
@[simp] theorem State.setT0_cls : (s.setT0 x).cls = s.cls := rfl
@[simp] theorem State.setT0_work : (s.setT0 x).work = s.work := rfl
@[simp] theorem State.setT0_requests : (s.setT0 x).requests = s.requests := rfl
@[simp] theorem State.setT0_statusIn : (s.setT0 x).statusIn = s.statusIn := rfl
@[simp] theorem State.setT0_bytesIn : (s.setT0 x).bytesIn = s.bytesIn := rfl
@[simp] theorem State.setT0_timeIn : (s.setT0 x).timeIn = s.timeIn := rfl
@[simp] theorem State.setT0_log : (s.setT0 x).log = s.log := rfl
end

section
variable (s : State) (x : Frame)
@[simp] theorem State.setFrame_cfg : (s.setFrame x).cfg = s.cfg := rfl
@[simp] theorem State.setFrame_mode : (s.setFrame x).mode = s.mode := rfl
@[simp] theorem State.setFrame_stretch : (s.setFrame x).stretch = s.stretch := rfl
@[simp] theorem State.setFrame_lastCont : (s.setFrame x).lastCont = s.lastCont := rfl
@[simp] theorem State.setFrame_lastContWritten : (s.setFrame x).lastContWritten = s.lastContWritten := rfl
@[simp] theorem State.setFrame_addr : (s.setFrame x).addr = s.addr := rfl
@[simp] theorem State.setFrame_seq : (s.setFrame x).seq = s.seq := rfl
@[simp] theorem State.setFrame_t0 : (s.setFrame x).t0 = s.t0 := rfl
@[simp] theorem State.setFrame_frame : (s.setFrame x).frame = x := rfl
@[simp] theorem State.setFrame_cls : (s.setFrame x).cls = s.cls := rfl
@[simp] theorem State.setFrame_work : (s.setFrame x).work = s.work := rfl
@[simp] theorem State.setFrame_requests : (s.setFrame x).requests = s.requests := rfl
@[simp] theorem State.setFrame_statusIn : (s.setFrame x).statusIn = s.statusIn := rfl
@[simp] theorem State.setFrame_bytesIn : (s.setFrame x).bytesIn = s.bytesIn := rfl
@[simp] theorem State.setFrame_timeIn : (s.setFrame x).timeIn = s.timeIn := rfl
@[simp] theorem State.setFrame_log : (s.setFrame x).log = s.log := rfl
end

section
variable (s : State) (x : Classification)
@[simp] theorem State.setCls_cfg : (s.setCls x).cfg = s.cfg := rfl
@[simp] theorem State.setCls_mode : (s.setCls x).mode = s.mode := rfl
@[simp] theorem State.setCls_stretch : (s.setCls x).stretch = s.stretch := rfl
@[simp] theorem State.setCls_lastCont : (s.setCls x).lastCont = s.lastCont := rfl
@[simp] theorem State.setCls_lastContWritten : (s.setCls x).lastContWritten = s.lastContWritten := rfl
@[simp] theorem State.setCls_addr : (s.setCls x).addr = s.addr := rfl
@[simp] theorem State.setCls_seq : (s.setCls x).seq = s.seq := rfl
@[simp] theorem State.setCls_t0 : (s.setCls x).t0 = s.t0 := rfl
@[simp] theorem State.setCls_frame : (s.setCls x).frame = s.frame := rfl
@[simp] theorem State.setCls_cls : (s.setCls x).cls = x := rfl
@[simp] theorem State.setCls_work : (s.setCls x).work = s.work := rfl
@[simp] theorem State.setCls_requests : (s.setCls x).requests = s.requests := rfl
@[simp] theorem State.setCls_statusIn : (s.setCls x).statusIn = s.statusIn := rfl
@[simp] theorem State.setCls_bytesIn : (s.setCls x).bytesIn = s.bytesIn := rfl
@[simp] theorem State.setCls_timeIn : (s.setCls x).timeIn = s.timeIn := rfl
@[simp] theorem State.setCls_log : (s.setCls x).log = s.log := rfl
end

section
variable (s : State) (x : Work)
@[simp] theorem State.setWork_cfg : (s.setWork x).cfg = s.cfg := rfl
@[simp] theorem State.setWork_mode : (s.setWork x).mode = s.mode := rfl
@[simp] theorem State.setWork_stretch : (s.setWork x).stretch = s.stretch := rfl
@[simp] theorem State.setWork_lastCont : (s.setWork x).lastCont = s.lastCont := rfl
@[simp] theorem State.setWork_lastContWritten : (s.setWork x).lastContWritten = s.lastContWritten := rfl
@[simp] theorem State.setWork_addr : (s.setWork x).addr = s.addr := rfl
@[simp] theorem State.setWork_seq : (s.setWork x).seq = s.seq := rfl
@[simp] theorem State.setWork_t0 : (s.setWork x).t0 = s.t0 := rfl
@[simp] theorem State.setWork_frame : (s.setWork x).frame = s.frame := rfl
@[simp] theorem State.setWork_cls : (s.setWork x).cls = s.cls := rfl
@[simp] theorem State.setWork_work : (s.setWork x).work = x := rfl
@[simp] theorem State.setWork_requests : (s.setWork x).requests = s.requests := rfl
@[simp] theorem State.setWork_statusIn : (s.setWork x).statusIn = s.statusIn := rfl
@[simp] theorem State.setWork_bytesIn : (s.setWork x).bytesIn = s.bytesIn := rfl
@[simp] theorem State.setWork_timeIn : (s.setWork x).timeIn = s.timeIn := rfl
@[simp] theorem State.setWork_log : (s.setWork x).log = s.log := rfl
end

section
variable (s : State) (x : List ReqWord)
@[simp] theorem State.setRequests_cfg : (s.setRequests x).cfg = s.cfg := rfl
@[simp] theorem State.setRequests_mode : (s.setRequests x).mode = s.mode := rfl
@[simp] theorem State.setRequests_stretch : (s.setRequests x).stretch = s.stretch := rfl
@[simp] theorem State.setRequests_lastCont : (s.setRequests x).lastCont = s.lastCont := rfl
@[simp] theorem State.setRequests_lastContWritten : (s.setRequests x).lastContWritten = s.lastContWritten := rfl
@[simp] theorem State.setRequests_addr : (s.setRequests x).addr = s.addr := rfl
@[simp] theorem State.setRequests_seq : (s.setRequests x).seq = s.seq := rfl
@[simp] theorem State.setRequests_t0 : (s.setRequests x).t0 = s.t0 := rfl
@[simp] theorem State.setRequests_frame : (s.setRequests x).frame = s.frame := rfl
@[simp] theorem State.setRequests_cls : (s.setRequests x).cls = s.cls := rfl
@[simp] theorem State.setRequests_work : (s.setRequests x).work = s.work := rfl
@[simp] theorem State.setRequests_requests : (s.setRequests x).requests = x := rfl
@[simp] theorem State.setRequests_statusIn : (s.setRequests x).statusIn = s.statusIn := rfl
@[simp] theorem State.setRequests_bytesIn : (s.setRequests x).bytesIn = s.bytesIn := rfl
@[simp] theorem State.setRequests_timeIn : (s.setRequests x).timeIn = s.timeIn := rfl
@[simp] theorem State.setRequests_log : (s.setRequests x).log = s.log := rfl
end

section
variable (s : State) (x : List (BitVec 3))
@[simp] theorem State.setStatusIn_cfg : (s.setStatusIn x).cfg = s.cfg := rfl
@[simp] theorem State.setStatusIn_mode : (s.setStatusIn x).mode = s.mode := rfl
@[simp] theorem State.setStatusIn_stretch : (s.setStatusIn x).stretch = s.stretch := rfl
@[simp] theorem State.setStatusIn_lastCont : (s.setStatusIn x).lastCont = s.lastCont := rfl
@[simp] theorem State.setStatusIn_lastContWritten : (s.setStatusIn x).lastContWritten = s.lastContWritten := rfl
@[simp] theorem State.setStatusIn_addr : (s.setStatusIn x).addr = s.addr := rfl
@[simp] theorem State.setStatusIn_seq : (s.setStatusIn x).seq = s.seq := rfl
@[simp] theorem State.setStatusIn_t0 : (s.setStatusIn x).t0 = s.t0 := rfl
@[simp] theorem State.setStatusIn_frame : (s.setStatusIn x).frame = s.frame := rfl
@[simp] theorem State.setStatusIn_cls : (s.setStatusIn x).cls = s.cls := rfl
@[simp] theorem State.setStatusIn_work : (s.setStatusIn x).work = s.work := rfl
@[simp] theorem State.setStatusIn_requests : (s.setStatusIn x).requests = s.requests := rfl
@[simp] theorem State.setStatusIn_statusIn : (s.setStatusIn x).statusIn = x := rfl
@[simp] theorem State.setStatusIn_bytesIn : (s.setStatusIn x).bytesIn = s.bytesIn := rfl
@[simp] theorem State.setStatusIn_timeIn : (s.setStatusIn x).timeIn = s.timeIn := rfl
@[simp] theorem State.setStatusIn_log : (s.setStatusIn x).log = s.log := rfl
end

section
variable (s : State) (x : List (List Byte))
@[simp] theorem State.setBytesIn_cfg : (s.setBytesIn x).cfg = s.cfg := rfl
@[simp] theorem State.setBytesIn_mode : (s.setBytesIn x).mode = s.mode := rfl
@[simp] theorem State.setBytesIn_stretch : (s.setBytesIn x).stretch = s.stretch := rfl
@[simp] theorem State.setBytesIn_lastCont : (s.setBytesIn x).lastCont = s.lastCont := rfl
@[simp] theorem State.setBytesIn_lastContWritten : (s.setBytesIn x).lastContWritten = s.lastContWritten := rfl
@[simp] theorem State.setBytesIn_addr : (s.setBytesIn x).addr = s.addr := rfl
@[simp] theorem State.setBytesIn_seq : (s.setBytesIn x).seq = s.seq := rfl
@[simp] theorem State.setBytesIn_t0 : (s.setBytesIn x).t0 = s.t0 := rfl
@[simp] theorem State.setBytesIn_frame : (s.setBytesIn x).frame = s.frame := rfl
@[simp] theorem State.setBytesIn_cls : (s.setBytesIn x).cls = s.cls := rfl
@[simp] theorem State.setBytesIn_work : (s.setBytesIn x).work = s.work := rfl
@[simp] theorem State.setBytesIn_requests : (s.setBytesIn x).requests = s.requests := rfl
@[simp] theorem State.setBytesIn_statusIn : (s.setBytesIn x).statusIn = s.statusIn := rfl
@[simp] theorem State.setBytesIn_bytesIn : (s.setBytesIn x).bytesIn = x := rfl
@[simp] theorem State.setBytesIn_timeIn : (s.setBytesIn x).timeIn = s.timeIn := rfl
@[simp] theorem State.setBytesIn_log : (s.setBytesIn x).log = s.log := rfl
end

section
variable (s : State) (x : List Time)
@[simp] theorem State.setTimeIn_cfg : (s.setTimeIn x).cfg = s.cfg := rfl
@[simp] theorem State.setTimeIn_mode : (s.setTimeIn x).mode = s.mode := rfl
@[simp] theorem State.setTimeIn_stretch : (s.setTimeIn x).stretch = s.stretch := rfl
@[simp] theorem State.setTimeIn_lastCont : (s.setTimeIn x).lastCont = s.lastCont := rfl
@[simp] theorem State.setTimeIn_lastContWritten : (s.setTimeIn x).lastContWritten = s.lastContWritten := rfl
@[simp] theorem State.setTimeIn_addr : (s.setTimeIn x).addr = s.addr := rfl
@[simp] theorem State.setTimeIn_seq : (s.setTimeIn x).seq = s.seq := rfl
@[simp] theorem State.setTimeIn_t0 : (s.setTimeIn x).t0 = s.t0 := rfl
@[simp] theorem State.setTimeIn_frame : (s.setTimeIn x).frame = s.frame := rfl
@[simp] theorem State.setTimeIn_cls : (s.setTimeIn x).cls = s.cls := rfl
@[simp] theorem State.setTimeIn_work : (s.setTimeIn x).work = s.work := rfl
@[simp] theorem State.setTimeIn_requests : (s.setTimeIn x).requests = s.requests := rfl
@[simp] theorem State.setTimeIn_statusIn : (s.setTimeIn x).statusIn = s.statusIn := rfl
@[simp] theorem State.setTimeIn_bytesIn : (s.setTimeIn x).bytesIn = s.bytesIn := rfl
@[simp] theorem State.setTimeIn_timeIn : (s.setTimeIn x).timeIn = x := rfl
@[simp] theorem State.setTimeIn_log : (s.setTimeIn x).log = s.log := rfl
end

section
variable (s : State) (x : List Event)
@[simp] theorem State.emit_cfg : (s.emit x).cfg = s.cfg := rfl
@[simp] theorem State.emit_mode : (s.emit x).mode = s.mode := rfl
@[simp] theorem State.emit_stretch : (s.emit x).stretch = s.stretch := rfl
@[simp] theorem State.emit_lastCont : (s.emit x).lastCont = s.lastCont := rfl
@[simp] theorem State.emit_lastContWritten : (s.emit x).lastContWritten = s.lastContWritten := rfl
@[simp] theorem State.emit_addr : (s.emit x).addr = s.addr := rfl
@[simp] theorem State.emit_seq : (s.emit x).seq = s.seq := rfl
@[simp] theorem State.emit_t0 : (s.emit x).t0 = s.t0 := rfl
@[simp] theorem State.emit_frame : (s.emit x).frame = s.frame := rfl
@[simp] theorem State.emit_cls : (s.emit x).cls = s.cls := rfl
@[simp] theorem State.emit_work : (s.emit x).work = s.work := rfl
@[simp] theorem State.emit_requests : (s.emit x).requests = s.requests := rfl
@[simp] theorem State.emit_statusIn : (s.emit x).statusIn = s.statusIn := rfl
@[simp] theorem State.emit_bytesIn : (s.emit x).bytesIn = s.bytesIn := rfl
@[simp] theorem State.emit_timeIn : (s.emit x).timeIn = s.timeIn := rfl
@[simp] theorem State.emit_log : (s.emit x).log = s.log ++ x := rfl
end

end Sys2Proof.Machine
end

