-- ==== Sys2Proof/Laws/Ops.lean ====
section
/-! SUPPORT. What each shared operation can do, said once: the answers of the ports, the hold, the acceptance and the
response. Later proofs cite these and unfold none of the operations. -/

namespace Sys2Proof.Machine

@[simp] theorem TransportStatus.ofCode_code (st : TransportStatus) : TransportStatus.ofCode st.code = some st := by
  cases st <;> rfl

theorem TransportStatus.code_of_ofCode {c : BitVec 3} {st : TransportStatus}
    (h : TransportStatus.ofCode c = some st) : c = st.code := by
  revert st; revert c; decide

/-! ## Bus writes -/

theorem busWrite_held {b0 b1 : Byte} {s : State} (h : s.statusIn = []) : busWrite b0 b1 s = .held := by
  simp [busWrite, h]

theorem busWrite_got {b0 b1 : Byte} {s : State} {st : TransportStatus} {later : List (BitVec 3)}
    (h : s.statusIn = st.code :: later) :
    busWrite b0 b1 s = .got st ((s.setStatusIn later).emit [.write s.addr b0 b1 st]) := by
  simp [busWrite, h]

theorem busWrite_outside {b0 b1 : Byte} {s : State} {code : BitVec 3} {later : List (BitVec 3)}
    (h : s.statusIn = code :: later) (hc : TransportStatus.ofCode code = none) : busWrite b0 b1 s = .outside := by
  simp [busWrite, h, hc]

/-- Everything an answered write can be. -/
theorem busWrite_answer {b0 b1 : Byte} {s s' : State} {st : TransportStatus} (h : busWrite b0 b1 s = .got st s') :
    ∃ later, s.statusIn = st.code :: later ∧ s' = (s.setStatusIn later).emit [.write s.addr b0 b1 st] := by
  unfold busWrite at h
  split at h
  · cases h
  · rename_i code later hs
    split at h
    · cases h
    · rename_i st' hst
      cases h
      exact ⟨later, by rw [hs, TransportStatus.code_of_ofCode hst], rfl⟩

/-- A held write is one with no answer. -/
theorem busWrite_eq_held {b0 b1 : Byte} {s : State} (h : busWrite b0 b1 s = .held) : s.statusIn = [] := by
  unfold busWrite at h
  split at h
  · assumption
  · split at h <;> cases h

/-! ## Bus reads -/

theorem busRead_held {n : Nat} {release : Bool} {s : State} (h : s.bytesIn = []) : busRead n release s = .held := by
  simp [busRead, h]

theorem busRead_got {n : Nat} {release : Bool} {s : State} {rx : List Byte} {later : List (List Byte)}
    (h : s.bytesIn = rx :: later) (hn : rx.length ≤ n) :
    busRead n release s = .got rx ((s.setBytesIn later).emit [.read s.addr n release rx]) := by
  simp [busRead, h, hn]

theorem busRead_outside {n : Nat} {release : Bool} {s : State} {rx : List Byte} {later : List (List Byte)}
    (h : s.bytesIn = rx :: later) (hn : n < rx.length) : busRead n release s = .outside := by
  simp [busRead, h, Nat.not_le.mpr hn]

/-- Everything an answered read can be. -/
theorem busRead_answer {n : Nat} {release : Bool} {s s' : State} {rx : List Byte} (h : busRead n release s = .got rx s') :
    ∃ later, s.bytesIn = rx :: later ∧ rx.length ≤ n ∧
      s' = (s.setBytesIn later).emit [.read s.addr n release rx] := by
  unfold busRead at h
  split at h
  · cases h
  · rename_i rx' later hs
    split at h
    · rename_i hn
      cases h
      exact ⟨later, hs, hn, rfl⟩
    · cases h

/-- A held read is one with no answer. -/
theorem busRead_eq_held {n : Nat} {release : Bool} {s : State} (h : busRead n release s = .held) : s.bytesIn = [] := by
  unfold busRead at h
  split at h
  · assumption
  · split at h <;> cases h

/-! ## Time samples -/

theorem sampleNow_held {s : State} (h : s.timeIn = []) : sampleNow s = .held := by
  simp [sampleNow, h]

theorem sampleNow_got {s : State} {t : Time} {later : List Time} (h : s.timeIn = t :: later) :
    sampleNow s = .got t ((s.setTimeIn later).emit [.now t]) := by
  simp [sampleNow, h]

/-- Everything a sample can be. -/
theorem sampleNow_answer {s s' : State} {t : Time} (h : sampleNow s = .got t s') :
    ∃ later, s.timeIn = t :: later ∧ s' = (s.setTimeIn later).emit [.now t] := by
  unfold sampleNow at h
  split at h
  · cases h
  · rename_i t' later hs
    cases h
    exact ⟨later, hs, rfl⟩

/-! ## Waiting for an answer -/

@[simp] theorem Answer.andThen_held {α : Type} (s : State) (k : α → State → Out) :
    (Answer.held : Answer α).andThen s k = .next s := rfl

@[simp] theorem Answer.andThen_outside {α : Type} (s : State) (k : α → State → Out) :
    (Answer.outside : Answer α).andThen s k = .refused .transportContract := rfl

@[simp] theorem Answer.andThen_got {α : Type} (x : α) (s s' : State) (k : α → State → Out) :
    (Answer.got x s').andThen s k = k x s' := rfl

/-- Waiting answers a next state by holding, or by going on with the answer. -/
theorem Answer.andThen_next {α : Type} {a : Answer α} {s t : State} {k : α → State → Out}
    (h : a.andThen s k = .next t) : (a = .held ∧ t = s) ∨ ∃ x s', a = .got x s' ∧ k x s' = .next t := by
  cases a with
  | held => exact .inl ⟨rfl, by cases h; rfl⟩
  | outside => cases h
  | got x s' => exact .inr ⟨x, s', rfl, h⟩

/-- Waiting faults only by going on with the answer. -/
theorem Answer.andThen_fault {α : Type} {a : Answer α} {s : State} {k : α → State → Out} {f : Fault}
    (h : a.andThen s k = .fault f) : ∃ x s', a = .got x s' ∧ k x s' = .fault f := by
  cases a with
  | held => cases h
  | outside => cases h
  | got x s' => exact ⟨x, s', rfl, h⟩

/-! ## The request port -/

theorem accept_ready {s : State} (h : s.seq = .ready) (k : State → Out) :
    accept s k = k (s.setRequests s.requests.tail) := by
  simp [accept, h]

theorem accept_busy {s : State} (h : s.seq ≠ .ready) (k : State → Out) : accept s k = .next s := by
  simp [accept, h]

/-- A response always completes, in one state. -/
theorem respond_next {w : ResponseWord} {s t : State} (h : respond w s = .next t) :
    t = ((s.emit [.response w]).setWork Work.clear).goto .ready := by
  cases h; rfl

theorem readLastCont_written {s : State} (h : s.lastContWritten = true) (k : CmdWord → Out) :
    readLastCont s k = k s.lastCont := by
  simp [readLastCont, h]

theorem readLastCont_unwritten {s : State} (h : s.lastContWritten = false) (k : CmdWord → Out) :
    readLastCont s k = .fault .lastContUnwritten := by
  simp [readLastCont, h]

/-- Reading `LAST_CONT` goes on only where it has been written. -/
theorem readLastCont_next {s t : State} {k : CmdWord → Out} (h : readLastCont s k = .next t) :
    s.lastContWritten = true ∧ k s.lastCont = .next t := by
  unfold readLastCont at h
  split at h
  · exact ⟨‹_›, h⟩
  · cases h

end Sys2Proof.Machine
end

