-- ==== Sys2Proof/Laws/Phases.lean ====
section
/-! SUPPORT. One inversion lemma per phase of the sequencer: if the phase answers a next state, it is one of these. A later
proof composes them, from the last phase back to the first. -/

namespace Sys2Proof.Machine

/-! ## The reading assembler -/

/-- What a completed measurement read leaves (R109). -/
theorem rmDone_next {s t : State} (h : rmDone s = .next t) :
    ∃ fr c w, t = ((((s.setFrame fr).setCls c).emit [.response (.meas w)]).setWork Work.clear).goto .ready :=
  ⟨_, _, _, respond_next h⟩

/-- What a completed status read leaves (R116). -/
theorem rsDone_next {s t : State} (h : rsDone s = .next t) :
    ∃ fr c w, t = ((((s.setFrame fr).setCls c).emit [.response (.value w)]).setWork Work.clear).goto .ready :=
  ⟨_, _, _, respond_next h⟩

theorem rmRead_next {s t : State} (h : rmRead s = .next t) :
    (s.bytesIn = [] ∧ t = s) ∨
    ∃ rx later, s.bytesIn = rx :: later ∧ rx.length ≤ 6 ∧
      rmDone ((((s.setBytesIn later).emit [.read s.addr 6 s.work.release rx]).setWork
        { s.work with rx := rx }).goto .rmDone) = .next t := by
  rcases Answer.andThen_next h with ⟨ha, ht⟩ | ⟨rx, s', ha, hk⟩
  · exact .inl ⟨busRead_eq_held ha, ht⟩
  · obtain ⟨later, hb, hn, rfl⟩ := busRead_answer ha
    exact .inr ⟨rx, later, hb, hn, hk⟩

theorem rsRead_next {s t : State} (h : rsRead s = .next t) :
    (s.bytesIn = [] ∧ t = s) ∨
    ∃ rx later, s.bytesIn = rx :: later ∧ rx.length ≤ 3 ∧
      rsDone ((((s.setBytesIn later).emit [.read s.addr 3 true rx]).setWork
        { s.work with rx := rx }).goto .rsDone) = .next t := by
  rcases Answer.andThen_next h with ⟨ha, ht⟩ | ⟨rx, s', ha, hk⟩
  · exact .inl ⟨busRead_eq_held ha, ht⟩
  · obtain ⟨later, hb, hn, rfl⟩ := busRead_answer ha
    exact .inr ⟨rx, later, hb, hn, hk⟩

/-! ## The controller -/

/-- What a returned dispatch goes on with (R91, R110, R118). -/
theorem dispatchDone_next {op : Caller} {st : TransportStatus} {s t : State} (h : dispatchDone op st s = .next t) :
    (op = .dispatch ∧ respond (.status st.code) s = .next t) ∨
    (op = .readMeas ∧ st = .success ∧ rmReadWith true s = .next t) ∨
    (op = .readMeas ∧ st ≠ .success ∧ rmDone (s.goto .rmDone) = .next t) ∨
    (op = .readStatus ∧ st = .success ∧ isStatusRead s.cfg s.work.cmd = true ∧ rsRead (s.goto .rsRead) = .next t) ∨
    (op = .readStatus ∧ ¬ (st = .success ∧ isStatusRead s.cfg s.work.cmd = true) ∧
      rsDone (s.goto .rsDone) = .next t) := by
  cases op with
  | dispatch => exact .inl ⟨rfl, h⟩
  | readMeas =>
    by_cases hs : st = .success
    · exact .inr (.inl ⟨rfl, hs, by simpa [dispatchDone, hs] using h⟩)
    · exact .inr (.inr (.inl ⟨rfl, hs, by simpa [dispatchDone, hs] using h⟩))
  | readStatus =>
    by_cases hs : st = .success ∧ isStatusRead s.cfg s.work.cmd = true
    · exact .inr (.inr (.inr (.inl ⟨rfl, hs.1, hs.2, by simpa [dispatchDone, hs.1, hs.2] using h⟩)))
    · exact .inr (.inr (.inr (.inr ⟨rfl, hs, by simpa only [dispatchDone, if_neg hs] using h⟩)))

/-- A send answered a next state: it holds, or the transport answered a status. -/
theorem send_andThen_next {c : CmdWord} {s t : State} {k : TransportStatus → State → Out}
    (h : (send c s).andThen s k = .next t) :
    (s.statusIn = [] ∧ t = s) ∨
    ∃ st later, s.statusIn = st.code :: later ∧ k st ((s.setStatusIn later).emit [sendEvent s c st]) = .next t := by
  rcases Answer.andThen_next h with ⟨ha, ht⟩ | ⟨st, s', ha, hk⟩
  · exact .inl ⟨busWrite_eq_held ha, ht⟩
  · obtain ⟨later, hb, rfl⟩ := busWrite_answer ha
    exact .inr ⟨st, later, hb, hk⟩

/-- A send with an answer goes on with it. -/
theorem send_andThen_got {c : CmdWord} {s : State} {k : TransportStatus → State → Out} {st : TransportStatus}
    {later : List (BitVec 3)} (h : s.statusIn = st.code :: later) :
    (send c s).andThen s k = k st ((s.setStatusIn later).emit [sendEvent s c st]) := by
  simp [send, busWrite_got h, sendEvent]

theorem dspDirect_next {op : Caller} {s t : State} (h : dspDirect op s = .next t) :
    (s.statusIn = [] ∧ t = s) ∨
    ∃ st later, s.statusIn = st.code :: later ∧
      dispatchDone op st ((s.setStatusIn later).emit [sendEvent s s.work.cmd st]) = .next t :=
  send_andThen_next h

theorem dspResume_next {op : Caller} {s t : State} (h : dspResume op s = .next t) :
    s.lastContWritten = true ∧
    ((s.statusIn = [] ∧ t = s) ∨
    ∃ st later, s.statusIn = st.code :: later ∧
      dispatchDone op s.work.sent ((s.setStatusIn later).emit [sendEvent s s.lastCont st]) = .next t) := by
  obtain ⟨hw, h'⟩ := readLastCont_next h
  rcases send_andThen_next h' with hh | ⟨st, later, hb, hk⟩
  · exact ⟨hw, .inl hh⟩
  · exact ⟨hw, .inr ⟨st, later, hb, hk⟩⟩

theorem dspCmd_next {op : Caller} {s t : State} (h : dspCmd op s = .next t) :
    (s.statusIn = [] ∧ t = s) ∨
    ∃ st later, s.statusIn = st.code :: later ∧
      ((isSide s.cfg s.work.cmd = true ∧
          dspResume op ((((s.setStatusIn later).emit [sendEvent s s.work.cmd st]).setWork
            { s.work with sent := st }).goto (.dsp op .resume)) = .next t) ∨
       (isSide s.cfg s.work.cmd = false ∧
          dispatchDone op st (((s.setStatusIn later).emit [sendEvent s s.work.cmd st]).setMode .idle) = .next t)) := by
  rcases send_andThen_next h with hh | ⟨st, later, hb, hk⟩
  · exact .inl hh
  · refine .inr ⟨st, later, hb, ?_⟩
    by_cases hs : isSide s.cfg s.work.cmd = true
    · exact .inl ⟨hs, by simpa [hs] using hk⟩
    · exact .inr ⟨by simpa using hs, by simpa [hs] using hk⟩

theorem dspHold_next {op : Caller} {s t : State} (h : dspHold op s = .next t) :
    ((∀ e ∈ s.timeIn, settled s.cfg s.t0 e = false) ∧ t = (s.emit (s.timeIn.map .now)).setTimeIn []) ∨
    ∃ early late later, s.timeIn = early ++ late :: later ∧ (∀ e ∈ early, settled s.cfg s.t0 e = false) ∧
      settled s.cfg s.t0 late = true ∧
      dspCmd op (((s.emit ((early ++ [late]).map .now)).setTimeIn later).goto (.dsp op .cmd)) = .next t := by
  unfold dspHold at h
  rcases settleScan_cases s.cfg s.t0 s.timeIn with ⟨he, hr⟩ | ⟨early, late, later, hl, he, ht, hr⟩
  · rw [hr] at h
    exact .inl ⟨he, by cases h; rfl⟩
  · rw [hr] at h
    exact .inr ⟨early, late, later, hl, he, ht, h⟩

theorem dspSettle_next {op : Caller} {s t : State} (h : dspSettle op s = .next t) :
    (s.work.t0Taken = true ∧ dspHold op s = .next t) ∨
    (s.work.t0Taken = false ∧ s.timeIn = [] ∧ t = s) ∨
    (s.work.t0Taken = false ∧ ∃ start later, s.timeIn = start :: later ∧
      dspHold op ((((s.setTimeIn later).emit [.now start]).setT0 start).setWork
        { s.work with t0Taken := true }) = .next t) := by
  by_cases h0 : s.work.t0Taken = true
  · exact .inl ⟨h0, by simpa [dspSettle, h0] using h⟩
  · have hf : s.work.t0Taken = false := by simpa using h0
    simp only [dspSettle, hf] at h
    rcases Answer.andThen_next h with ⟨ha, ht⟩ | ⟨x, s', ha, hk⟩
    · refine .inr (.inl ⟨hf, ?_, ht⟩)
      unfold sampleNow at ha
      split at ha
      · assumption
      · cases ha
    · obtain ⟨later, hl, rfl⟩ := sampleNow_answer ha
      exact .inr (.inr ⟨hf, x, later, hl, hk⟩)

theorem dspStop_next {op : Caller} {s t : State} (h : dspStop op s = .next t) :
    (s.statusIn = [] ∧ t = s) ∨
    ∃ st later, s.statusIn = st.code :: later ∧
      ((st = .success ∧
          dspSettle op (((((s.setStatusIn later).emit [sendEvent s s.cfg.cmdStop st]).setStretch
            (stretchOf s.cfg s.work.cmd)).setWork { s.work with t0Taken := false }).goto (.dsp op .settle)) = .next t) ∨
       (st ≠ .success ∧
          dispatchDone op st ((s.setStatusIn later).emit [sendEvent s s.cfg.cmdStop st]) = .next t)) := by
  rcases send_andThen_next h with hh | ⟨st, later, hb, hk⟩
  · exact .inl hh
  · refine .inr ⟨st, later, hb, ?_⟩
    by_cases hs : st = .success
    · exact .inl ⟨hs, by simpa [hs] using hk⟩
    · exact .inr ⟨hs, by simpa [hs] using hk⟩

/-! ## The settle window (R98) -/

theorem settled_false {cfg : Config} {t0 t : Time} (h : t - t0 < cfg.settleMs) : settled cfg t0 t = false := by
  simpa [settled] using h

theorem settled_true {cfg : Config} {t0 t : Time} (h : cfg.settleMs ≤ t - t0) : settled cfg t0 t = true := by
  simpa [settled] using h

/-- On entering the settle window the first sample is `T0`. -/
theorem dspSettle_first {op : Caller} {s : State} {start : Time} {later : List Time} (h0 : s.work.t0Taken = false)
    (ht : s.timeIn = start :: later) :
    dspSettle op s = dspHold op ((((s.setTimeIn later).emit [.now start]).setT0 start).setWork
      { s.work with t0Taken := true }) := by
  simp only [dspSettle, h0, Bool.false_eq_true, if_false, sampleNow_got ht, Answer.andThen_got]
  rfl

/-- The window is over at the first late enough sample, and the command follows. -/
theorem dspHold_late {op : Caller} {s : State} {late : Time} {early later : List Time}
    (ht : s.timeIn = early ++ late :: later) (he : ∀ e ∈ early, settled s.cfg s.t0 e = false)
    (hl : settled s.cfg s.t0 late = true) :
    dspHold op s =
      dspCmd op (((s.emit ((early ++ [late]).map .now)).setTimeIn later).goto (.dsp op .cmd)) := by
  simp only [dspHold, ht, settleScan_late he hl]

/-- The block holds while every sample is early. -/
theorem dspHold_early {op : Caller} {s : State} (he : ∀ e ∈ s.timeIn, settled s.cfg s.t0 e = false) :
    dspHold op s = .next ((s.emit (s.timeIn.map .now)).setTimeIn []) := by
  simp only [dspHold, settleScan_early he]

/-! ## Case selection (R92) -/

theorem dispatchCase_enter {cfg : Config} {m : Mode} {c : CmdWord} (hm : m = .idle) (hc : isCont cfg c = true) :
    dispatchCase cfg m c = .enter := by
  simp [dispatchCase, hm, hc]

theorem dispatchCase_halt {cfg : Config} {m : Mode} {c : CmdWord} (hm : m = .continuous) (hc : isCont cfg c = false)
    (hf : isFetch cfg c = false) : dispatchCase cfg m c = .halt := by
  simp [dispatchCase, hm, hc, hf]

theorem dispatchCase_direct {cfg : Config} {m : Mode} {c : CmdWord}
    (h : (m = .idle ∧ isCont cfg c = false) ∨ (m = .continuous ∧ (isCont cfg c = true ∨ isFetch cfg c = true))) :
    dispatchCase cfg m c = .direct := by
  rcases h with ⟨hm, hc⟩ | ⟨hm, hc | hc⟩ <;> simp [dispatchCase, hm, hc]

theorem dispatch_enter {op : Caller} {c : CmdWord} {s : State} (hm : s.mode = .idle) (hc : isCont s.cfg c = true) :
    dispatch op c s = enterCase op c (s.setWork { s.work with cmd := c }) := by
  simp [dispatch, dispatchCase_enter hm hc]

theorem dispatch_halt {op : Caller} {c : CmdWord} {s : State} (hm : s.mode = .continuous)
    (hc : isCont s.cfg c = false) (hf : isFetch s.cfg c = false) :
    dispatch op c s = dspStop op ((s.setWork { s.work with cmd := c }).goto (.dsp op .stop)) := by
  simp [dispatch, dispatchCase_halt hm hc hf]

theorem dispatch_direct {op : Caller} {c : CmdWord} {s : State}
    (h : (s.mode = .idle ∧ isCont s.cfg c = false) ∨
      (s.mode = .continuous ∧ (isCont s.cfg c = true ∨ isFetch s.cfg c = true))) :
    dispatch op c s = directCase op c (s.setWork { s.work with cmd := c }) := by
  simp [dispatch, dispatchCase_direct h]

/-- The host's dispatch of a word, by case (R92, R93). -/
theorem dispatchCase_cases (cfg : Config) (m : Mode) (c : CmdWord) :
    (dispatchCase cfg m c = .enter ∧ m = .idle ∧ isCont cfg c = true) ∨
    (dispatchCase cfg m c = .halt ∧ m = .continuous ∧ isCont cfg c = false ∧ isFetch cfg c = false) ∨
    (dispatchCase cfg m c = .direct ∧
      ((m = .idle ∧ isCont cfg c = false) ∨ (m = .continuous ∧ (isCont cfg c = true ∨ isFetch cfg c = true)))) := by
  cases m <;> cases hc : isCont cfg c <;> cases hf : isFetch cfg c <;> simp [dispatchCase, hc, hf]

/-- A dispatch on case 3 whose send is answered (R99). -/
theorem dispatch_direct_answered {op : Caller} {c : CmdWord} {s : State} {st : TransportStatus} {codes : List (BitVec 3)}
    (h : (s.mode = .idle ∧ isCont s.cfg c = false) ∨
      (s.mode = .continuous ∧ (isCont s.cfg c = true ∨ isFetch s.cfg c = true)))
    (hs : s.statusIn = st.code :: codes) :
    dispatch op c s = dispatchDone op st { s with
      stretch := stretchOf s.cfg c, lastCont := (if isCont s.cfg c = true then c else s.lastCont),
      lastContWritten := (isCont s.cfg c || s.lastContWritten), seq := .dsp op .direct,
      work := { s.work with cmd := c }, statusIn := codes, log := s.log ++ [sendEvent s c st] } := by
  rw [dispatch_direct h]
  simp only [directCase, dspDirect, State.setWork_cfg]
  by_cases hc : isCont s.cfg c = true
  · simp only [hc, if_true]
    rw [send_andThen_got (st := st) (later := codes) (by simpa using hs)]
    simp [State.goto, State.setWork, State.emit, State.setStatusIn, State.setStretch, State.setLastCont, sendEvent]
  · rw [Bool.not_eq_true] at hc
    simp only [hc, Bool.false_eq_true, if_false]
    rw [send_andThen_got (st := st) (later := codes) (by simpa using hs)]
    simp [State.goto, State.setWork, State.emit, State.setStatusIn, State.setStretch, sendEvent]

/-- A dispatch that leaves or interrupts Continuous, from its answered stop over its settle window to the command (R95,
R98): what the block is when the command is about to be sent. -/
theorem dispatch_to_command {op : Caller} {c : CmdWord} {s : State} {codes : List (BitVec 3)} {start late : Time}
    {early rest : List Time} (hm : s.mode = .continuous) (hc : isCont s.cfg c = false) (hf : isFetch s.cfg c = false)
    (hs : s.statusIn = TransportStatus.code .success :: codes) (ht : s.timeIn = start :: (early ++ late :: rest))
    (he : ∀ e ∈ early, e - start < s.cfg.settleMs) (hl : s.cfg.settleMs ≤ late - start) :
    dispatch op c s = dspCmd op { s with
      stretch := stretchOf s.cfg c, t0 := start, seq := .dsp op .cmd,
      work := { s.work with cmd := c, t0Taken := true }, statusIn := codes, timeIn := rest,
      log := s.log ++ ([sendEvent s s.cfg.cmdStop .success, .now start] ++ early.map .now ++ [.now late]) } := by
  rw [dispatch_halt hm hc hf, dspStop, send_andThen_got (by exact hs)]
  simp only [if_true]
  rw [dspSettle_first rfl (by exact ht),
    dspHold_late (by rfl) (fun e h => settled_false (he e h)) (settled_true hl)]
  simp [State.goto, State.setWork, State.emit, State.setStatusIn, State.setStretch, State.setT0, State.setTimeIn, sendEvent]

/-- Each command instruction is the host's dispatch of its word (R66). -/
theorem exec_of_dispatchedWord {i : Instr} {s : State} {c : CmdWord} (h : dispatchedWord s.cfg i = some c) :
    exec i s = hostDispatch c s := by
  cases i <;> simp only [dispatchedWord, Option.some.injEq, reduceCtorEq] at h <;> subst h <;> rfl

/-- A request that carries a command word is one dispatch of it, from a state that differs from the accepted one in the
frame buffer, the working values and `SEQ` at most (R91, R116). -/
theorem exec_of_hostWord {i : Instr} {s : State} {c : CmdWord} (h : hostWord s.cfg i = some c) (hr : s.seq = .ready) :
    ∃ op fr w q, exec i s =
      dispatch op c { s with frame := fr, work := w, seq := q, requests := s.requests.tail } := by
  by_cases hi : i = .readStatus c
  · subst hi
    exact ⟨.readStatus, fillSentinel s.cfg 0 3 s.frame, { s.work with cmd := c, rx := [] }, .rsDispatch, accept_ready hr _⟩
  · have hd : dispatchedWord s.cfg i = some c := by
      cases i <;> first | exact h | cases h
      exact absurd rfl hi
    exact ⟨.dispatch, s.frame, s.work, s.seq, by rw [exec_of_dispatchedWord hd, hostDispatch, accept_ready hr]; rfl⟩

end Sys2Proof.Machine
end

