-- ==== Sys2Proof/Laws/Moves.lean ====
section
/-! SUPPORT. A whole step as a chain of single moves: an event at a port, or one register written. What every move keeps,
every step keeps: the induction is done here once. -/

namespace Sys2Proof.Machine

/-- The moves a phase of the sequencer is made of. -/
inductive Moves (s : State) : State → Prop where
  | refl : Moves s s
  | write {t : State} (c : CmdWord) (st : TransportStatus) (later : List (BitVec 3)) :
      Moves s t → t.statusIn = st.code :: later → Moves s ((t.setStatusIn later).emit [sendEvent t c st])
  | read {t : State} (n : Nat) (release : Bool) (rx : List Byte) (later : List (List Byte)) :
      Moves s t → t.bytesIn = rx :: later → rx.length ≤ n → (n = 6 ∨ (n = 3 ∧ release = true)) →
      Moves s ((t.setBytesIn later).emit [.read t.addr n release rx])
  | sample {t : State} (taken later : List Time) :
      Moves s t → t.timeIn = taken ++ later → Moves s ((t.emit (taken.map .now)).setTimeIn later)
  | response {t : State} (w : ResponseWord) : Moves s t → Moves s (t.emit [.response w])
  | mode {t : State} (m : Mode) : Moves s t → Moves s (t.setMode m)
  | stretch {t : State} (x : Stretch) : Moves s t → Moves s (t.setStretch x)
  | lastCont {t : State} (c : CmdWord) : Moves s t → Moves s (t.setLastCont c)
  | goto {t : State} (q : Seq) : Moves s t → Moves s (t.goto q)
  | t0 {t : State} (x : Time) : Moves s t → Moves s (t.setT0 x)
  | frame {t : State} (fr : Frame) : Moves s t → Moves s (t.setFrame fr)
  | cls {t : State} (c : Classification) : Moves s t → Moves s (t.setCls c)
  | work {t : State} (w : Work) : Moves s t → Moves s (t.setWork w)

theorem Moves.trans {s t u : State} (h : Moves s t) (h' : Moves t u) : Moves s u := by
  induction h' with
  | refl => exact h
  | write c st later _ he ih => exact .write c st later ih he
  | read n release rx later _ hb hn hr ih => exact .read n release rx later ih hb hn hr
  | sample taken later _ ht ih => exact .sample taken later ih ht
  | response w _ ih => exact .response w ih
  | mode m _ ih => exact .mode m ih
  | stretch x _ ih => exact .stretch x ih
  | lastCont c _ ih => exact .lastCont c ih
  | goto q _ ih => exact .goto q ih
  | t0 x _ ih => exact .t0 x ih
  | frame fr _ ih => exact .frame fr ih
  | cls c _ ih => exact .cls c ih
  | work w _ ih => exact .work w ih

/-! ## Each phase moves -/

theorem respond_moves {w : ResponseWord} {s t : State} (h : respond w s = .next t) : Moves s t := by
  rw [respond_next h]
  exact .goto _ (.work _ (.response _ .refl))

theorem rmDone_moves {s t : State} (h : rmDone s = .next t) : Moves s t := by
  obtain ⟨fr, c, w, rfl⟩ := rmDone_next h
  exact .goto _ (.work _ (.response _ (.cls _ (.frame _ .refl))))

theorem rsDone_moves {s t : State} (h : rsDone s = .next t) : Moves s t := by
  obtain ⟨fr, c, w, rfl⟩ := rsDone_next h
  exact .goto _ (.work _ (.response _ (.cls _ (.frame _ .refl))))

theorem rmRead_moves {s t : State} (h : rmRead s = .next t) : Moves s t := by
  rcases rmRead_next h with ⟨_, rfl⟩ | ⟨rx, later, hb, hn, hk⟩
  · exact .refl
  · exact Moves.trans (.goto _ (.work _ (.read 6 _ rx later .refl hb hn (.inl rfl)))) (rmDone_moves hk)

theorem rmReadWith_moves {release : Bool} {s t : State} (h : rmReadWith release s = .next t) : Moves s t :=
  Moves.trans (.goto _ (.work _ .refl)) (rmRead_moves h)

theorem rsRead_moves {s t : State} (h : rsRead s = .next t) : Moves s t := by
  rcases rsRead_next h with ⟨_, rfl⟩ | ⟨rx, later, hb, hn, hk⟩
  · exact .refl
  · exact Moves.trans (.goto _ (.work _ (.read 3 true rx later .refl hb hn (.inr ⟨rfl, rfl⟩)))) (rsDone_moves hk)

theorem dispatchDone_moves {op : Caller} {st : TransportStatus} {s t : State} (h : dispatchDone op st s = .next t) :
    Moves s t := by
  rcases dispatchDone_next h with ⟨_, h⟩ | ⟨_, _, h⟩ | ⟨_, _, h⟩ | ⟨_, _, _, h⟩ | ⟨_, _, h⟩
  · exact respond_moves h
  · exact rmReadWith_moves h
  · exact Moves.trans (.goto _ .refl) (rmDone_moves h)
  · exact Moves.trans (.goto _ .refl) (rsRead_moves h)
  · exact Moves.trans (.goto _ .refl) (rsDone_moves h)

theorem dspDirect_moves {op : Caller} {s t : State} (h : dspDirect op s = .next t) : Moves s t := by
  rcases dspDirect_next h with ⟨_, rfl⟩ | ⟨st, later, hb, hk⟩
  · exact .refl
  · exact Moves.trans (.write _ st later .refl hb) (dispatchDone_moves hk)

theorem dspResume_moves {op : Caller} {s t : State} (h : dspResume op s = .next t) : Moves s t := by
  rcases dspResume_next h with ⟨_, ⟨_, rfl⟩ | ⟨st, later, hb, hk⟩⟩
  · exact .refl
  · exact Moves.trans (.write _ st later .refl hb) (dispatchDone_moves hk)

theorem dspCmd_moves {op : Caller} {s t : State} (h : dspCmd op s = .next t) : Moves s t := by
  rcases dspCmd_next h with ⟨_, rfl⟩ | ⟨st, later, hb, ⟨_, hk⟩ | ⟨_, hk⟩⟩
  · exact .refl
  · exact Moves.trans (.goto _ (.work _ (.write _ st later .refl hb))) (dspResume_moves hk)
  · exact Moves.trans (.mode _ (.write _ st later .refl hb)) (dispatchDone_moves hk)

theorem dspHold_moves {op : Caller} {s t : State} (h : dspHold op s = .next t) : Moves s t := by
  rcases dspHold_next h with ⟨_, rfl⟩ | ⟨early, late, later, hl, _, _, hk⟩
  · exact .sample s.timeIn [] .refl (by simp)
  · exact Moves.trans (.goto _ (.sample (early ++ [late]) later .refl (by simpa using hl))) (dspCmd_moves hk)

theorem dspSettle_moves {op : Caller} {s t : State} (h : dspSettle op s = .next t) : Moves s t := by
  rcases dspSettle_next h with ⟨_, hk⟩ | ⟨_, _, rfl⟩ | ⟨_, start, later, hl, hk⟩
  · exact dspHold_moves hk
  · exact .refl
  · exact Moves.trans (.work _ (.t0 _ (.sample [start] later .refl hl))) (dspHold_moves hk)

theorem dspStop_moves {op : Caller} {s t : State} (h : dspStop op s = .next t) : Moves s t := by
  rcases dspStop_next h with ⟨_, rfl⟩ | ⟨st, later, hb, ⟨_, hk⟩ | ⟨_, hk⟩⟩
  · exact .refl
  · exact Moves.trans (.goto _ (.work _ (.stretch _ (.write _ st later .refl hb)))) (dspSettle_moves hk)
  · exact Moves.trans (.write _ st later .refl hb) (dispatchDone_moves hk)

theorem dispatch_moves {op : Caller} {c : CmdWord} {s t : State} (h : dispatch op c s = .next t) : Moves s t := by
  rcases dispatchCase_cases s.cfg s.mode c with ⟨_, hm, hc⟩ | ⟨_, hm, hc, hf⟩ | ⟨_, hd⟩
  · rw [dispatch_enter hm hc] at h
    exact Moves.trans (.goto _ (.stretch _ (.mode _ (.lastCont _ (.work _ .refl))))) (dspDirect_moves h)
  · rw [dispatch_halt hm hc hf] at h
    exact Moves.trans (.goto _ (.work _ .refl)) (dspStop_moves h)
  · rw [dispatch_direct hd] at h
    have h' := dspDirect_moves h
    refine Moves.trans (.goto _ (.stretch _ ?_)) h'
    split
    · exact .lastCont _ (.work _ .refl)
    · exact .work _ .refl

theorem rmPath_moves {s t : State} (h : rmPath s = .next t) : Moves s t := by
  unfold rmPath at h
  split at h
  · exact Moves.trans (.goto _ .refl) (rmDone_moves h)
  · exact Moves.trans (.goto _ .refl) (rmDone_moves h)
  · exact rmReadWith_moves h
  · split at h
    · exact Moves.trans (.goto _ .refl) (dispatch_moves h)
    · exact rmReadWith_moves h

theorem rmStart_moves {convert : Bool} {s t : State} (h : rmStart convert s = .next t) : Moves s t :=
  Moves.trans (.work _ (.frame _ .refl)) (rmPath_moves h)

theorem rsStart_moves {c : CmdWord} {s t : State} (h : rsStart c s = .next t) : Moves s t :=
  Moves.trans (.goto _ (.work _ (.frame _ .refl))) (dispatch_moves h)

/-- Resuming a request moves. -/
theorem resume_moves {s t : State} (h : resume s = .next t) : Moves s t := by
  unfold resume at h
  split at h
  · cases h; exact .refl
  · exact dspStop_moves h
  · exact dspSettle_moves h
  · exact dspCmd_moves h
  · exact dspResume_moves h
  · exact dspDirect_moves h
  · exact dispatch_moves h
  · exact rmRead_moves h
  · exact rmDone_moves h
  · exact dispatch_moves h
  · exact rsRead_moves h
  · exact rsDone_moves h

/-- What an instruction does in READY, once its request is off the port: the reads and the dispatch. -/
theorem exec_ready {i : Instr} {s : State} (hr : s.seq = .ready) :
    (∃ convert, i = .readMeas convert ∧ exec i s = rmStart convert (s.setRequests s.requests.tail)) ∨
    (∃ c, i = .readStatus c ∧ exec i s = rsStart c (s.setRequests s.requests.tail)) ∨
    (∃ bits, i = .reserved bits ∧ exec i s = .refused .reservedOp) ∨
    (∃ c, dispatchedWord s.cfg i = some c ∧ exec i s = dispatch .dispatch c (s.setRequests s.requests.tail)) := by
  have hd : ∀ c, dispatchedWord s.cfg i = some c → exec i s = dispatch .dispatch c (s.setRequests s.requests.tail) := by
    intro c hc
    rw [exec_of_dispatchedWord hc, hostDispatch, accept_ready hr]
  cases i with
  | readMeas convert => exact .inl ⟨convert, rfl, accept_ready hr _⟩
  | readStatus c => exact .inr (.inl ⟨c, rfl, accept_ready hr _⟩)
  | reserved bits => exact .inr (.inr (.inl ⟨bits, rfl, rfl⟩))
  | _ => exact .inr (.inr (.inr ⟨_, rfl, hd _ rfl⟩))

/-- Executing an instruction in READY moves on from the state with its request off the port. -/
theorem exec_moves {i : Instr} {s t : State} (hr : s.seq = .ready) (h : exec i s = .next t) :
    Moves (s.setRequests s.requests.tail) t := by
  rcases exec_ready (i := i) hr with ⟨convert, _, he⟩ | ⟨c, _, he⟩ | ⟨bits, _, he⟩ | ⟨c, _, he⟩
  · exact rmStart_moves (he ▸ h)
  · exact rsStart_moves (he ▸ h)
  · rw [he] at h; cases h
  · exact dispatch_moves (he ▸ h)

/-- Everything a step is: waiting, one instruction executed in READY, or the request in progress resumed. -/
theorem step_next {s t : State} (h : step s = .next t) :
    (s.seq = .ready ∧ s.requests = [] ∧ t = s) ∨
    (s.seq = .ready ∧ ∃ w later i, s.requests = w :: later ∧ decodeRequest w = .ok i ∧ exec i s = .next t) ∨
    (s.seq ≠ .ready ∧ resume s = .next t) := by
  unfold step at h
  split at h
  · rename_i hr
    split at h
    · rename_i hn
      cases h
      exact .inl ⟨hr, by simpa [nextRequest] using hn, rfl⟩
    · rename_i w hw
      split at h
      · rename_i i hi
        cases hq : s.requests with
        | nil => simp [nextRequest, hq] at hw
        | cons w' later =>
          simp only [nextRequest, hq, List.head?_cons, Option.some.injEq] at hw
          subst hw
          exact .inr (.inl ⟨hr, w', later, i, rfl, hi, h⟩)
      · cases h
  · rename_i hr
    exact .inr (.inr ⟨hr, h⟩)

/-- Every step moves, from the state itself or from the state with one request off the port. -/
theorem step_moves {s t : State} (h : step s = .next t) : Moves s t ∨ Moves (s.setRequests s.requests.tail) t := by
  rcases step_next h with ⟨_, _, rfl⟩ | ⟨hr, _, _, _, _, _, he⟩ | ⟨_, he⟩
  · exact .inl .refl
  · exact .inr (exec_moves hr he)
  · exact .inl (resume_moves he)

end Sys2Proof.Machine
end

