-- ==== Sys2Proof/Laws/PerInstr.lean ====
section
/-! SUPPORT. Laws that hold of every instruction as syntax, one lemma per constructor: the word an instruction is encoded as
matches its row of spec/opcode_table.json. The table's command rows are those of EX (30_encoding.md R67). -/

namespace Sys2Proof

/-- A request instruction's word carries its row's fixed bits. -/
def RequestMatches (i : Instr) (mask value : ReqWord) : Prop :=
  ∃ w, encode Machine.configEx i = .request w ∧ w &&& mask = value

/-- A command instruction's word, under EX, carries its row's fixed bits. -/
def CommandMatches (i : Instr) (mask value : CmdWord) : Prop :=
  ∃ w, encode Machine.configEx i = .command w ∧ w &&& mask = value

/-- The bits of a request word made of its fields, under a mask that reads `op` and `cv` alone. -/
theorem requestWord_mask_op_cv (op : BitVec 2) (cv : Bool) (cmd cmd' : CmdWord) :
    requestWord op cv cmd &&& 0x70000#19 = requestWord op cv cmd' &&& 0x70000#19 := by
  apply BitVec.eq_of_getLsbD_eq
  intro i hi
  rw [BitVec.getLsbD_and, BitVec.getLsbD_and, requestWord_getLsbD, requestWord_getLsbD]
  by_cases h : i < 16
  · have h0 : ∀ k : Fin 16, (0x70000#19).getLsbD k = false := by decide
    rw [h0 ⟨i, h⟩, Bool.and_false, Bool.and_false]
  · simp only [h, if_false]

/-- A reserved request word has both `op` bits set. -/
theorem reservedWord_mask (bits : BitVec 17) : (3#2 ++ bits : ReqWord) &&& 0x60000#19 = 0x60000#19 := by
  apply BitVec.eq_of_getLsbD_eq
  intro i hi
  rw [BitVec.getLsbD_and, reservedWord_getLsbD]
  by_cases h : i < 17
  · have h0 : ∀ k : Fin 17, (0x60000#19).getLsbD k = false := by decide
    rw [h0 ⟨i, h⟩, Bool.and_false]
  · have h1 : i = 17 ∨ i = 18 := by omega
    rcases h1 with rfl | rfl <;> rfl

/-- The row of spec/opcode_table.json an instruction belongs to holds of its word. -/
def Laws.EncodeMatchesRow.Statement : Instr → Prop
  | .dispatch c => RequestMatches (.dispatch c) 0x70000#19 0x00000#19
  | .readMeas cv => RequestMatches (.readMeas cv) 0x6FFFF#19 0x20000#19
  | .readStatus c => RequestMatches (.readStatus c) 0x70000#19 0x40000#19
  | .reserved bits => RequestMatches (.reserved bits) 0x60000#19 0x60000#19
  | .cont0 => CommandMatches .cont0 0xFFFF#16 0x2032#16
  | .cont1 => CommandMatches .cont1 0xFFFF#16 0x2130#16
  | .cont2 => CommandMatches .cont2 0xFFFF#16 0x2236#16
  | .cont3 => CommandMatches .cont3 0xFFFF#16 0x2334#16
  | .cont4 => CommandMatches .cont4 0xFFFF#16 0x2737#16
  | .cont5 => CommandMatches .cont5 0xFFFF#16 0x2B32#16
  | .fetch => CommandMatches .fetch 0xFFFF#16 0xE000#16
  | .stop => CommandMatches .stop 0xFFFF#16 0x3093#16
  | .heaterEn => CommandMatches .heaterEn 0xFFFF#16 0x306D#16
  | .heaterDis => CommandMatches .heaterDis 0xFFFF#16 0x3066#16
  | .statusRead => CommandMatches .statusRead 0xFFFF#16 0xF32D#16
  | .statusClear => CommandMatches .statusClear 0xFFFF#16 0x3041#16
  | .other c => CommandMatches (.other c) 0x0000#16 0x0000#16

theorem Laws.EncodeMatchesRow.dispatch (c : CmdWord) : Laws.EncodeMatchesRow.Statement (.dispatch c) :=
  ⟨_, rfl, (requestWord_mask_op_cv 0#2 false c 0#16).trans (by decide)⟩

theorem Laws.EncodeMatchesRow.readMeas (cv : Bool) : Laws.EncodeMatchesRow.Statement (.readMeas cv) :=
  ⟨_, rfl, by cases cv <;> decide⟩

theorem Laws.EncodeMatchesRow.readStatus (c : CmdWord) : Laws.EncodeMatchesRow.Statement (.readStatus c) :=
  ⟨_, rfl, (requestWord_mask_op_cv 2#2 false c 0#16).trans (by decide)⟩

theorem Laws.EncodeMatchesRow.reserved (bits : BitVec 17) : Laws.EncodeMatchesRow.Statement (.reserved bits) :=
  ⟨_, rfl, reservedWord_mask bits⟩

theorem Laws.EncodeMatchesRow.cont0 : Laws.EncodeMatchesRow.Statement .cont0 := ⟨_, rfl, by decide⟩

theorem Laws.EncodeMatchesRow.cont1 : Laws.EncodeMatchesRow.Statement .cont1 := ⟨_, rfl, by decide⟩

theorem Laws.EncodeMatchesRow.cont2 : Laws.EncodeMatchesRow.Statement .cont2 := ⟨_, rfl, by decide⟩

theorem Laws.EncodeMatchesRow.cont3 : Laws.EncodeMatchesRow.Statement .cont3 := ⟨_, rfl, by decide⟩

theorem Laws.EncodeMatchesRow.cont4 : Laws.EncodeMatchesRow.Statement .cont4 := ⟨_, rfl, by decide⟩

theorem Laws.EncodeMatchesRow.cont5 : Laws.EncodeMatchesRow.Statement .cont5 := ⟨_, rfl, by decide⟩

theorem Laws.EncodeMatchesRow.fetch : Laws.EncodeMatchesRow.Statement .fetch := ⟨_, rfl, by decide⟩

theorem Laws.EncodeMatchesRow.stop : Laws.EncodeMatchesRow.Statement .stop := ⟨_, rfl, by decide⟩

theorem Laws.EncodeMatchesRow.heaterEn : Laws.EncodeMatchesRow.Statement .heaterEn := ⟨_, rfl, by decide⟩

theorem Laws.EncodeMatchesRow.heaterDis : Laws.EncodeMatchesRow.Statement .heaterDis := ⟨_, rfl, by decide⟩

theorem Laws.EncodeMatchesRow.statusRead : Laws.EncodeMatchesRow.Statement .statusRead := ⟨_, rfl, by decide⟩

theorem Laws.EncodeMatchesRow.statusClear : Laws.EncodeMatchesRow.Statement .statusClear := ⟨_, rfl, by decide⟩

theorem Laws.EncodeMatchesRow.other (c : CmdWord) : Laws.EncodeMatchesRow.Statement (.other c) :=
  ⟨_, rfl, BitVec.and_zero⟩

end Sys2Proof
end

