-- ==== Sys2Proof/Laws/Reads.lean ====
section
/-! SUPPORT. The reading assembler from the bus read on, in one equation per phase: what it answers once the buffer holds what
the read's start left in it. -/

namespace Sys2Proof.Machine

/-- A measurement read after its bus path: the response and all it leaves (R109). -/
theorem rmDone_eq {s : State} (h : s.frame = sentinelFrame s.cfg) :
    rmDone s = .next { s with
      frame := measFrame s.cfg s.work.rx, cls := measClass s.cfg s.work.rx, seq := .ready, work := Work.clear,
      log := s.log ++ [.response (.meas (measWord s.cfg s.work.convert s.work.rx))] } := by
  simp only [rmDone, respond, h, classifyMeas]
  rfl

/-- A measurement read whose bus read is answered (R109, R110). -/
theorem rmRead_eq {s : State} {rx : List Byte} {later : List (List Byte)} (h : s.frame = sentinelFrame s.cfg)
    (hb : s.bytesIn = rx :: later) (hl : rx.length ≤ 6) :
    rmRead s = .next { s with
      frame := measFrame s.cfg rx, cls := measClass s.cfg rx, seq := .ready, work := Work.clear, bytesIn := later,
      log := s.log ++ [.read s.addr 6 s.work.release rx, .response (.meas (measWord s.cfg s.work.convert rx))] } := by
  unfold rmRead
  rw [busRead_got hb hl, Answer.andThen_got, rmDone_eq (by simpa using h)]
  simp [State.goto, State.setWork, State.emit, State.setBytesIn]

/-- A status read after its dispatch and its bus read: the response and all it leaves (R116). -/
theorem rsDone_eq {s : State} {fr : Frame} (h : s.frame = regStart s.cfg fr) :
    rsDone s = .next { s with
      frame := regFrame s.cfg s.work.rx fr, cls := regClass s.cfg s.work.rx fr, seq := .ready, work := Work.clear,
      log := s.log ++ [.response (.value (field1 (regFrame s.cfg s.work.rx fr)))] } := by
  simp only [rsDone, respond, h, classifyReg]
  rfl

/-- A status read whose bus read is answered (R116, R118). -/
theorem rsRead_eq {s : State} {fr : Frame} {rx : List Byte} {later : List (List Byte)}
    (h : s.frame = regStart s.cfg fr) (hb : s.bytesIn = rx :: later) (hl : rx.length ≤ 3) :
    rsRead s = .next { s with
      frame := regFrame s.cfg rx fr, cls := regClass s.cfg rx fr, seq := .ready, work := Work.clear, bytesIn := later,
      log := s.log ++ [.read s.addr 3 true rx, .response (.value (field1 (regFrame s.cfg rx fr)))] } := by
  unfold rsRead
  rw [busRead_got hb hl, Answer.andThen_got, rsDone_eq (fr := fr) (by simpa using h)]
  simp [State.goto, State.setWork, State.emit, State.setBytesIn]

/-- Nothing received: the class is forced and the buffer stays all sentinel (R112). -/
theorem measFrame_nil (cfg : Config) : measClass cfg [] = .noneValid ∧ measFrame cfg [] = sentinelFrame cfg := by
  have h : measClass cfg [] = .noneValid := rfl
  refine ⟨h, ?_⟩
  simp only [measFrame, h, mask, place_nil, fillSentinel_six]

/-- Nothing received: the class is forced and the register bytes stay sentinel (R119). -/
theorem regFrame_nil (cfg : Config) (fr : Frame) :
    regClass cfg [] fr = .noneValid ∧ regFrame cfg [] fr = regStart cfg fr := by
  have h : regClass cfg [] fr = .noneValid := rfl
  refine ⟨h, ?_⟩
  simp only [regFrame, h, mask, place_nil, fillSentinel_three]
  ext j hj
  simp [regStart]

end Sys2Proof.Machine
end

