-- ==== Sys2Proof/Laws/Run.lean ====
section
/-! SUPPORT. A run of the core unrolled by its first step, one lemma per outcome of that step. -/

namespace Sys2Proof.Machine

theorem run_zero (s : State) : Host.Core.run Sys2Proof.core 0 s = .next s := rfl

/-- A run is its first step and then the rest. -/
theorem run_succ (M : Host.Core) (k : Nat) (s : M.State) :
    M.run (k + 1) s =
      (match M.step s with
        | .next t => M.run k t
        | .fault f => .fault f
        | .refused r => .refused r) := rfl

theorem run_of_next {k : Nat} {s t : State} (h : step s = .next t) :
    Host.Core.run Sys2Proof.core (k + 1) s = Host.Core.run Sys2Proof.core k t := by
  have hr := run_succ Sys2Proof.core k s
  rw [show Sys2Proof.core.step s = .next t from h] at hr
  exact hr

theorem run_of_fault {k : Nat} {s : State} {f : Fault} (h : step s = .fault f) :
    Host.Core.run Sys2Proof.core (k + 1) s = .fault f := by
  have hr := run_succ Sys2Proof.core k s
  rw [show Sys2Proof.core.step s = .fault f from h] at hr
  exact hr

theorem run_of_refused {k : Nat} {s : State} {r : Refusal} (h : step s = .refused r) :
    Host.Core.run Sys2Proof.core (k + 1) s = .refused r := by
  have hr := run_succ Sys2Proof.core k s
  rw [show Sys2Proof.core.step s = .refused r from h] at hr
  exact hr

end Sys2Proof.Machine
end

