-- ==== Sys2Proof/Tests/Slice0.lean ====
section
/-! SUPPORT. Small tests of the model, each a named theorem. The expected results are those of the spec: its vectors (V-…) of
95_test_vectors.md, its rules, or words written out bit by bit from 30_encoding.md. The last section shows, for each statement
with hypotheses, a concrete state and operands that meet them. -/

namespace Sys2Proof.Tests

open Sys2Proof Sys2Proof.Machine

/-! ## Helpers -/

/-- The outcome is a next state with the property. -/
def nextIs (o : Out) (p : State → Bool) : Bool :=
  match o with
  | .next t => p t
  | .fault _ => false
  | .refused _ => false

/-- The outcome is this refusal. -/
def refusedAs (o : Out) (r : Refusal) : Bool :=
  match o with
  | .next _ => false
  | .fault _ => false
  | .refused x => x == r

/-- The outcome is this fault. -/
def faultsAs (o : Out) (f : Fault) : Bool :=
  match o with
  | .next _ => false
  | .fault x => x == f
  | .refused _ => false

/-- `Idle / NoStretch / —` with the transport's answers to come. -/
def idle (codes : List (BitVec 3)) (reads : List (List Byte)) : State := State.reset.offer codes reads []

/-- `Continuous / NoStretch / 0x2130`, with answers to come and the vectors' samples 1004, 1008, …, 1020. -/
def cont (codes : List (BitVec 3)) (reads : List (List Byte)) : State :=
  ((State.reset.setLastCont 0x2130#16).setMode .continuous).offer codes reads
    [1004#32, 1008#32, 1012#32, 1016#32, 1020#32]

/-- A write of two bytes to the address 0x44. -/
def wr (b0 b1 : Byte) (st : TransportStatus) : Event := .write 0x44#7 b0 b1 st

/-- The five samples of a settle window. -/
def settle : List Event := [.now 1004#32, .now 1008#32, .now 1012#32, .now 1016#32, .now 1020#32]

/-- The session registers and the log of a completed request. -/
def session (m : Mode) (x : Stretch) (last : CmdWord) (log : List Event) (t : State) : Bool :=
  t.seq == .ready && t.mode == m && t.stretch == x && t.lastCont == last && t.log == log

/-! ## Well-formedness: what the checks refuse -/

theorem test_wf_other_named_word_refused : Instr.wf configEx (.other 0xE000#16) = false := by decide
theorem test_wf_other_cont_word_refused : Instr.wf configEx (.other 0x2B32#16) = false := by decide
theorem test_wf_other_side_word_refused : Instr.wf configEx (.other 0x3041#16) = false := by decide
theorem test_wf_other_single_shot_accepted : Instr.wf configEx (.other 0x2C06#16) = true := by decide

/-- EX with its stop word equal to its fetch word. -/
def twoWordsEqual : Config := { configEx with cmdStop := 0xE000#16 }

/-- EX with the high byte of `CMD_FETCH` as the stretch-enabling one. -/
def fetchStretches : Config := { configEx with stretchMsb := 0xE0#8 }

/-- EX with another sentinel. -/
def otherSentinel : Config := { configEx with sentinel := 0x00#8 }

/-- EX with another settle window. -/
def otherSettle : Config := { configEx with settleMs := 15#32 }

theorem test_wf1_equal_words_refused : ¬ twoWordsEqual.WF1 := by decide
theorem test_wf2_stretching_fetch_refused : ¬ fetchStretches.WF2 := fun h => h 0xE000#16 (by decide) (by decide)
theorem test_source_sentinel_refused : ¬ otherSentinel.SourceValues := by decide
theorem test_source_settle_refused : ¬ otherSettle.SourceValues := by decide
theorem test_ex_meets_wf1 : configEx.WF1 := by decide
theorem test_ex_meets_wf2 : configEx.WF2 := fun c hc =>
  bne_iff_ne.mp (List.all_eq_true.mp
    (show configEx.words.all (fun w => hi w != configEx.stretchMsb) = true by decide) c hc)
theorem test_ex_meets_source_values : configEx.SourceValues := by decide

/-! ## Decoding: words written out from the encodings of 30_encoding.md R55 and the rows of R67 under EX -/

/-- `op = 00`, `cv = 0`, `cmd = 0x2130` (V-R8). -/
theorem test_decode_dispatch : decodeRequest 0b0000010000100110000#19 = .ok (.dispatch 0x2130#16) := by decide
/-- `op = 01`, `cv = 1`, `cmd = 0` (V-R9). -/
theorem test_decode_readMeas : decodeRequest 0b0110000000000000000#19 = .ok (.readMeas true) := by decide
/-- `op = 10`, `cv = 0`, `cmd = 0xF32D` (V-R10). -/
theorem test_decode_readStatus : decodeRequest 0b1001111001100101101#19 = .ok (.readStatus 0xF32D#16) := by decide
/-- `op = 11` (V-R11). -/
theorem test_decode_reserved : decodeRequest 0b1100000000000000000#19 = .ok (.reserved 0#17) := by decide
theorem test_decode_dispatch_with_cv_rejected : decodeRequest 0b0010010000100110000#19 = .error .reservedBits := by decide
theorem test_decode_readMeas_with_cmd_rejected : decodeRequest 0b0100000000000000001#19 = .error .reservedBits := by decide
theorem test_decode_readStatus_with_cv_rejected : decodeRequest 0b1011111001100101101#19 = .error .reservedBits := by decide
theorem test_decode_cont0 : decodeCommand configEx 0b0010000000110010#16 = .cont0 := by decide
theorem test_decode_cont1 : decodeCommand configEx 0b0010000100110000#16 = .cont1 := by decide
theorem test_decode_cont2 : decodeCommand configEx 0b0010001000110110#16 = .cont2 := by decide
theorem test_decode_cont3 : decodeCommand configEx 0b0010001100110100#16 = .cont3 := by decide
theorem test_decode_cont4 : decodeCommand configEx 0b0010011100110111#16 = .cont4 := by decide
theorem test_decode_cont5 : decodeCommand configEx 0b0010101100110010#16 = .cont5 := by decide
theorem test_decode_fetch : decodeCommand configEx 0b1110000000000000#16 = .fetch := by decide
theorem test_decode_stop : decodeCommand configEx 0b0011000010010011#16 = .stop := by decide
theorem test_decode_heaterEn : decodeCommand configEx 0b0011000001101101#16 = .heaterEn := by decide
theorem test_decode_heaterDis : decodeCommand configEx 0b0011000001100110#16 = .heaterDis := by decide
theorem test_decode_statusRead : decodeCommand configEx 0b1111001100101101#16 = .statusRead := by decide
theorem test_decode_statusClear : decodeCommand configEx 0b0011000001000001#16 = .statusClear := by decide
theorem test_decode_other : decodeCommand configEx 0b0010110000000110#16 = .other 0x2C06#16 := by decide

/-- The default row's word names only its low byte (opcode_table.json `OTHER`). -/
theorem test_table_other : decodeTableWord 8 0x2D = some (.other 0x002D#16) := by decide
theorem test_table_dispatch : decodeTableWord 24 0x02130 = some (.dispatch 0x2130#16) := by decide
theorem test_table_fetch : decodeTableWord 16 0xE000 = some .fetch := by decide
theorem test_table_too_wide : decodeTableWord 24 0x80000 = none := by decide

/-! ## Operand functions, checksum, classification, mask, conversion -/

theorem test_stretch_of : stretchOf configEx 0x2C06#16 = .stretch ∧ stretchOf configEx 0x2400#16 = .noStretch := by decide
theorem test_class_of : classOf configEx 0x2C06#16 = .other ∧ classOf configEx 0x3041#16 = .side := by decide
/-- V-C1 to V-C3. -/
theorem test_checksum : checksum configEx [0x00#8, 0x00#8] = 0x81#8 ∧ checksum configEx [0xFF#8, 0xFF#8] = 0xAC#8 ∧
    checksum configEx [0x00#8, 0x80#8] = 0xFB#8 ∧ checksum configEx [0x80#8, 0x00#8] = 0xA2#8 := by decide +kernel
/-- V-C8 to V-C11. -/
theorem test_validate_meas :
    validateMeas configEx #v[0xFB#8, 0x80#8, 0x00#8, 0xFB#8, 0x80#8, 0x00#8] = .allValid ∧
    validateMeas configEx #v[0xFB#8, 0x80#8, 0x00#8, 0xFA#8, 0x80#8, 0x00#8] = .onlyFirst ∧
    validateMeas configEx #v[0x00#8, 0x80#8, 0x00#8, 0xFB#8, 0x80#8, 0x00#8] = .onlySecond ∧
    validateMeas configEx (Vector.replicate 6 0xFF#8) = .noneValid := by decide +kernel
/-- V-C13, V-C14. -/
theorem test_validate_reg :
    validateReg configEx #v[0x95#8, 0x80#8, 0x10#8, 0#8, 0#8, 0#8] = .onlyFirst ∧
    validateReg configEx #v[0x94#8, 0x80#8, 0x10#8, 0#8, 0#8, 0#8] = .noneValid := by decide +kernel
/-- V-K3 to V-K6. -/
theorem test_mask :
    mask configEx 6 .onlyFirst #v[0xFB#8, 0x80#8, 0#8, 0xFB#8, 0x80#8, 0#8] =
      #v[0xFB#8, 0x80#8, 0#8, 0xFF#8, 0xFF#8, 0xFF#8] ∧
    mask configEx 6 .onlySecond #v[0xFB#8, 0x80#8, 0#8, 0xFB#8, 0x80#8, 0#8] =
      #v[0xFF#8, 0xFF#8, 0xFF#8, 0xFB#8, 0x80#8, 0#8] ∧
    mask configEx 3 .onlyFirst #v[0x95#8, 0x80#8, 0x10#8, 1#8, 2#8, 3#8] = #v[0x95#8, 0x80#8, 0x10#8, 1#8, 2#8, 3#8] ∧
    mask configEx 3 .noneValid #v[0x94#8, 0x80#8, 0x10#8, 1#8, 2#8, 3#8] = #v[0xFF#8, 0xFF#8, 0xFF#8, 1#8, 2#8, 3#8] := by
  decide
/-- V-V3 to V-V8. -/
theorem test_conv_h : convH 374#16 = 0#16 ∧ convH 656#16 = 1#16 ∧ convH 65534#16 = 99#16 ∧ convH 65535#16 = 100#16 := by
  decide
/-- V-V3, V-V4, V-V6, V-V11, V-V13. -/
theorem test_conv_t : convT 374#16 = 0xFFD3#16 ∧ convT 375#16 = 0xFFD4#16 ∧ convT 65535#16 = 130#16 ∧
    convT 0x4100#16 = 0xFFFF#16 ∧ convT 16852#16 = 0#16 := by decide
/-- V-T1, V-T2, V-T4, V-T5. -/
theorem test_settled : settled configEx 1000#32 1015#32 = false ∧ settled configEx 1000#32 1016#32 = true ∧
    settled configEx 0xFFFFFFF8#32 0x7#32 = false ∧ settled configEx 0xFFFFFFF8#32 0x8#32 = true ∧
    settled configEx 1000#32 999#32 = true := by decide

/-! ## One step of each instruction -/

/-- V-M5: stop, settle window, the word; Idle, and the stretch preference of 0x2C06. -/
theorem test_dispatch_single_shot_leaves :
    nextIs (exec (.dispatch 0x2C06#16) (cont [0#3, 0#3] []))
      (session .idle .stretch 0x2130#16
      ([wr 0x30#8 0x93#8 .success] ++ settle ++ [wr 0x2C#8 0x06#8 .success, .response (.status 0#3)])) = true := by
  decide

/-- V-M12: the stop is not acknowledged; its status is the response. -/
theorem test_dispatch_failed_stop :
    nextIs (exec (.dispatch 0x306D#16) (cont [2#3] []))
      (session .continuous .noStretch 0x2130#16
      [wr 0x30#8 0x93#8 .addressNack, .response (.status 2#3)]) = true := by
  decide

/-- V-A2: fetch, read with a stop, the two raw fields. -/
theorem test_readMeas_raw :
    nextIs (exec (.readMeas false) (cont [0#3] [[0x93#8, 0x66#8, 0x66#8, 0x91#8, 0x12#8, 0x34#8]]))
      (session .continuous .noStretch 0x2130#16
      [wr 0xE0#8 0x00#8 .success, .read 0x44#7 6 true [0x93#8, 0x66#8, 0x66#8, 0x91#8, 0x12#8, 0x34#8],
        .response (.meas 0x66661234#32)]) = true := by
  decide +kernel

/-- V-A5: a clock-stretched read; humidity converted, temperature invalid. -/
theorem test_readMeas_stretched :
    nextIs (exec (.readMeas true) ((idle [] [[0x93#8, 0x66#8, 0x66#8, 0x92#8, 0x66#8, 0x66#8]]).setStretch .stretch))
      (session .idle .stretch 0#16
      [.read 0x44#7 6 false [0x93#8, 0x66#8, 0x66#8, 0x92#8, 0x66#8, 0x66#8], .response (.meas 0x0028FFFF#32)]) = true := by
  decide +kernel

/-- V-S5: the register is read after the resume. -/
theorem test_readStatus_continuous :
    nextIs (exec (.readStatus 0xF32D#16) (cont [0#3, 0#3, 0#3] [[0x95#8, 0x80#8, 0x10#8]]))
      (session .continuous .noStretch 0x2130#16
      ([wr 0x30#8 0x93#8 .success] ++ settle ++ [wr 0xF3#8 0x2D#8 .success, wr 0x21#8 0x30#8 .success,
        .read 0x44#7 3 true [0x95#8, 0x80#8, 0x10#8], .response (.value 0x8010#16)])) = true := by
  decide +kernel

/-- V-S2: a wrong checksum gives the full sentinel value. -/
theorem test_readStatus_bad_checksum :
    nextIs (exec (.readStatus 0xF32D#16) (idle [0#3] [[0x94#8, 0x80#8, 0x10#8]]))
      (session .idle .noStretch 0#16
      [wr 0xF3#8 0x2D#8 .success, .read 0x44#7 3 true [0x94#8, 0x80#8, 0x10#8], .response (.value 0xFFFF#16)]) = true := by
  decide +kernel

/-- V-X1. -/
theorem test_reserved_refused :
    refusedAs (exec (.reserved 0#17) State.reset) .reservedOp = true := by
  decide

/-- R94, V-M16: the state is updated although the write is not acknowledged. -/
theorem test_cont0_from_idle :
    nextIs (exec .cont0 (idle [2#3] []))
      (session .continuous .noStretch 0x2032#16
      [wr 0x20#8 0x32#8 .addressNack, .response (.status 2#3)]) = true := by
  decide

/-- V-M1. -/
theorem test_cont1_from_idle :
    nextIs (exec .cont1 (idle [0#3] []))
      (session .continuous .noStretch 0x2130#16
      [wr 0x21#8 0x30#8 .success, .response (.status 0#3)]) = true := by
  decide

/-- R94. -/
theorem test_cont2_from_idle :
    nextIs (exec .cont2 (idle [0#3] []))
      (session .continuous .noStretch 0x2236#16
      [wr 0x22#8 0x36#8 .success, .response (.status 0#3)]) = true := by
  decide

/-- R94. -/
theorem test_cont3_from_idle :
    nextIs (exec .cont3 (idle [0#3] []))
      (session .continuous .noStretch 0x2334#16
      [wr 0x23#8 0x34#8 .success, .response (.status 0#3)]) = true := by
  decide

/-- R94. -/
theorem test_cont4_from_idle :
    nextIs (exec .cont4 (idle [0#3] []))
      (session .continuous .noStretch 0x2737#16
      [wr 0x27#8 0x37#8 .success, .response (.status 0#3)]) = true := by
  decide

/-- R94. -/
theorem test_cont5_from_idle :
    nextIs (exec .cont5 (idle [0#3] []))
      (session .continuous .noStretch 0x2B32#16
      [wr 0x2B#8 0x32#8 .success, .response (.status 0#3)]) = true := by
  decide

/-- V-M6: sent at once, without a stop, and remembered. -/
theorem test_cont2_when_continuous :
    nextIs (exec .cont2 (cont [0#3] []))
      (session .continuous .noStretch 0x2236#16
      [wr 0x22#8 0x36#8 .success, .response (.status 0#3)]) = true := by
  decide

/-- V-M7. -/
theorem test_fetch_when_continuous :
    nextIs (exec .fetch (cont [0#3] []))
      (session .continuous .noStretch 0x2130#16
      [wr 0xE0#8 0x00#8 .success, .response (.status 0#3)]) = true := by
  decide

/-- V-M8. -/
theorem test_fetch_when_idle :
    nextIs (exec .fetch (idle [0#3] []))
      (session .idle .noStretch 0#16
      [wr 0xE0#8 0x00#8 .success, .response (.status 0#3)]) = true := by
  decide

/-- V-M9: the stop is sent twice, around the settle window. -/
theorem test_stop_when_continuous :
    nextIs (exec .stop (cont [0#3, 0#3] []))
      (session .idle .noStretch 0x2130#16
      ([wr 0x30#8 0x93#8 .success] ++ settle ++ [wr 0x30#8 0x93#8 .success, .response (.status 0#3)])) = true := by
  decide

/-- V-M10. -/
theorem test_stop_when_idle :
    nextIs (exec .stop (idle [0#3] []))
      (session .idle .noStretch 0#16
      [wr 0x30#8 0x93#8 .success, .response (.status 0#3)]) = true := by
  decide

/-- V-M14: the resume's status is discarded. -/
theorem test_heaterEn_when_continuous :
    nextIs (exec .heaterEn (cont [0#3, 0#3, 3#3] []))
      (session .continuous .noStretch 0x2130#16
      ([wr 0x30#8 0x93#8 .success] ++ settle ++
      [wr 0x30#8 0x6D#8 .success, wr 0x21#8 0x30#8 .dataNack, .response (.status 0#3)])) = true := by
  decide

/-- V-M11: no resume. -/
theorem test_heaterEn_when_idle :
    nextIs (exec .heaterEn (idle [0#3] []))
      (session .idle .noStretch 0#16
      [wr 0x30#8 0x6D#8 .success, .response (.status 0#3)]) = true := by
  decide

/-- R96, as V-M3. -/
theorem test_heaterDis_when_continuous :
    nextIs (exec .heaterDis (cont [0#3, 0#3, 0#3] []))
      (session .continuous .noStretch 0x2130#16
      ([wr 0x30#8 0x93#8 .success] ++ settle ++
      [wr 0x30#8 0x66#8 .success, wr 0x21#8 0x30#8 .success, .response (.status 0#3)])) = true := by
  decide

/-- V-M13: the resume follows a failed command too. -/
theorem test_statusRead_when_continuous :
    nextIs (exec .statusRead (cont [0#3, 4#3, 0#3] []))
      (session .continuous .noStretch 0x2130#16
      ([wr 0x30#8 0x93#8 .success] ++ settle ++
      [wr 0xF3#8 0x2D#8 .otherError, wr 0x21#8 0x30#8 .success, .response (.status 4#3)])) = true := by
  decide

/-- R96, as V-M3. -/
theorem test_statusClear_when_continuous :
    nextIs (exec .statusClear (cont [0#3, 0#3, 0#3] []))
      (session .continuous .noStretch 0x2130#16
      ([wr 0x30#8 0x93#8 .success] ++ settle ++
      [wr 0x30#8 0x41#8 .success, wr 0x21#8 0x30#8 .success, .response (.status 0#3)])) = true := by
  decide

/-- V-M15: Idle although the command failed. -/
theorem test_other_leaves_continuous :
    nextIs (exec (.other 0x2400#16) (cont [0#3, 3#3] []))
      (session .idle .noStretch 0x2130#16
      ([wr 0x30#8 0x93#8 .success] ++ settle ++ [wr 0x24#8 0x00#8 .dataNack, .response (.status 3#3)])) = true := by
  decide

/-- V-M17. -/
theorem test_other_when_idle :
    nextIs (exec (.other 0x2C06#16) (idle [5#3] []))
      (session .idle .stretch 0#16
      [wr 0x2C#8 0x06#8 .timeout, .response (.status 5#3)]) = true := by
  decide

/-! ## Holds and stops -/

/-- V-X4: no answer, and the block waits in its phase. -/
theorem test_silent_transport_hangs :
    nextIs (step ((cont [] []).present [0x03093#19])) (fun t => t.seq == .dsp .dispatch .stop && t.log == []) = true := by
  decide

/-- V-X2: a status of 6. -/
theorem test_status_outside_contract :
    refusedAs (exec (.dispatch 0x2400#16) (idle [6#3] [])) .transportContract = true := by
  decide

/-- V-X2: 7 bytes for a read of 6. -/
theorem test_bytes_outside_contract :
    refusedAs (exec (.readMeas false) (idle [] [List.replicate 7 0#8])) .transportContract = true := by
  decide

/-- V-X3. -/
theorem test_unwritten_last_cont_faults :
    faultsAs (exec (.dispatch 0x306D#16) ((cont [0#3, 0#3, 0#3] []) |> fun s => { s with lastContWritten := false }))
    .lastContUnwritten = true := by
  decide

/-- V-R11. -/
theorem test_reserved_bits_refused :
    refusedAs (step (State.reset.present [0x12130#19])) .reservedBits = true := by
  decide

/-! ## Witnesses: for each statement with hypotheses, values that meet them all -/

theorem witness_RequestFieldsDecode :
    (0x0FFFF#19 &&& 0x70000#19 = 0x00000#19) ∧ (0x30000#19 &&& 0x6FFFF#19 = 0x20000#19) ∧
    (0x4FFFF#19 &&& 0x70000#19 = 0x40000#19) ∧ (0x7FFFF#19 &&& 0x60000#19 = 0x60000#19) := by
  decide

theorem witness_RequestFieldsDecode_rejected :
    (0x10000#19 &&& 0x70000#19 ≠ 0x00000#19 ∧ 0x10000#19 &&& 0x6FFFF#19 ≠ 0x20000#19 ∧ 0x10000#19 &&& 0x70000#19 ≠ 0x40000#19 ∧
      0x10000#19 &&& 0x60000#19 ≠ 0x60000#19) ∧
    (0x20001#19 &&& 0x70000#19 ≠ 0x00000#19 ∧ 0x20001#19 &&& 0x6FFFF#19 ≠ 0x20000#19 ∧ 0x20001#19 &&& 0x70000#19 ≠ 0x40000#19 ∧
      0x20001#19 &&& 0x60000#19 ≠ 0x60000#19) ∧
    (0x5FFFF#19 &&& 0x70000#19 ≠ 0x00000#19 ∧ 0x5FFFF#19 &&& 0x6FFFF#19 ≠ 0x20000#19 ∧ 0x5FFFF#19 &&& 0x70000#19 ≠ 0x40000#19 ∧
      0x5FFFF#19 &&& 0x60000#19 ≠ 0x60000#19) := by
  decide

/-- A well-formed instruction of every row. -/
def everyRow : List Instr :=
  [.dispatch 0xFFFF#16, .readMeas true, .readStatus 0xFFFF#16, .reserved 0x1FFFF#17, .cont0, .cont1, .cont2, .cont3, .cont4,
    .cont5, .fetch, .stop, .heaterEn, .heaterDis, .statusRead, .statusClear, .other 0xFFFF#16]

theorem witness_DecodeOfEncodeIsTheInstruction :
    configEx.WF1 ∧ ∀ i ∈ everyRow, i.wf configEx = true := by
  decide

theorem witness_EncodeOfDecodeIsTheWord :
    decode configEx (.command 0xE000#16) = .ok .fetch ∧
    decode configEx (.request 0x7FFFF#19) = .ok (.reserved 0x1FFFF#17) := by
  decide

theorem witness_CommandClassesExcludeEachOther :
    configEx.WF1 := by
  decide

theorem witness_StepRunsTheAcceptedRequest :
    (State.reset.present [0x02130#19]).seq = .ready ∧
    (State.reset.present [0x02130#19]).requests = 0x02130#19 :: [] ∧
    decodeRequest 0x02130#19 = .ok (.dispatch 0x2130#16) := by
  decide

theorem witness_PlacedTableWordIsRun :
    State.reset.cfg = configEx ∧ decodeTableWord 24 0x30000 = some (.readMeas true) ∧
    decodeTableWord 16 0x2130 = some .cont1 := by
  exact ⟨rfl, by decide, by decide⟩

theorem witness_ReservedRequestsAreRefused :
    (State.reset.present [0x60000#19]).seq = .ready ∧
    (State.reset.present [0x60000#19]).requests = 0x60000#19 :: [] ∧ (0x60000#19).extractLsb' 17 2 = 3#2 ∧
    ((0x12130#19).extractLsb' 17 2 = 0#2 ∧ (0x12130#19).getLsbD 16 = true) ∧
    ((0x5F32D#19).extractLsb' 17 2 = 2#2 ∧ (0x5F32D#19).getLsbD 16 = true) ∧
    ((0x20001#19).extractLsb' 17 2 = 1#2 ∧ (0x20001#19).extractLsb' 0 16 ≠ 0#16) ∧
    ∀ w ∈ [0x12130, 0x5F32D, 0x20001], (State.reset.present [BitVec.ofNat 19 w]).requests = BitVec.ofNat 19 w :: [] := by
  decide

/-- A request in progress that waits for its stop to be answered. -/
def waiting : State := (cont [] []).goto (.dsp .dispatch .stop)

theorem witness_RequestsAreTakenOneAtATime :
    waiting.seq ≠ .ready ∧ nextIs (step waiting) (fun t => t.seq == waiting.seq) = true ∧
    (∀ bits : BitVec 17, Instr.stop ≠ .reserved bits) ∧
    ((idle [0#3] []).present [0x02130#19]).seq = .ready ∧
    ((idle [0#3] []).present [0x02130#19]).requests = 0x02130#19 :: [] ∧
    nextIs (step ((idle [0#3] []).present [0x02130#19])) (fun t => t.seq == .ready) = true := by
  exact ⟨by decide, by decide, by simp, by decide, by decide, by decide⟩

theorem witness_NothingMovesWithoutInput :
    (State.reset.seq = .ready ∧ State.reset.requests = []) ∧
    (∀ p ∈ [DspPhase.stop, .cmd, .direct, .resume], ((cont [] []).goto (.dsp .dispatch p)).seq = .dsp .dispatch p ∧
      ((cont [] []).goto (.dsp .dispatch p)).lastContWritten = true ∧
      ((cont [] []).goto (.dsp .dispatch p)).statusIn = []) ∧
    (∀ q ∈ [Seq.rmRead, .rsRead], (State.reset.goto q).seq = q ∧ (State.reset.goto q).bytesIn = []) ∧
    (State.reset.goto (.dsp .readStatus .settle)).seq = .dsp .readStatus .settle ∧
    (State.reset.goto (.dsp .readStatus .settle)).timeIn = [] := by
  decide

theorem witness_HeldRequestGoesOnAsIfNeverHeld :
    (idle [] []).seq = .ready ∧ nextIs (exec (.readMeas true) (idle [] [])) (fun t => t.seq == .rmRead) = true ∧
    nextIs (exec .stop (cont [0#3] [])) (fun t => t.seq == .dsp .dispatch .cmd) = true := by
  decide

theorem witness_ContractBreakersAreRefused_phases :
    ∀ code ∈ [6, 7], ∀ p ∈ [DspPhase.stop, .cmd, .direct, .resume],
    ((cont [BitVec.ofNat 3 code] []).goto (.dsp .readStatus p)).seq = .dsp .readStatus p ∧
      ((cont [BitVec.ofNat 3 code] []).goto (.dsp .readStatus p)).lastContWritten = true ∧
      ((cont [BitVec.ofNat 3 code] []).goto (.dsp .readStatus p)).statusIn = BitVec.ofNat 3 code :: [] := by
  decide

theorem witness_ContractBreakersAreRefused_reads_in_progress :
    (((idle [] [List.replicate 7 0#8]).goto .rmRead).seq = .rmRead ∧
      ((idle [] [List.replicate 7 0#8]).goto .rmRead).bytesIn = List.replicate 7 0#8 :: [] ∧
      6 < (List.replicate 7 0#8).length) ∧
    (((idle [] [List.replicate 4 0#8]).goto .rsRead).seq = .rsRead ∧
      ((idle [] [List.replicate 4 0#8]).goto .rsRead).bytesIn = List.replicate 4 0#8 :: [] ∧
      3 < (List.replicate 4 0#8).length) := by
  decide

theorem witness_ContractBreakersAreRefused_first_status :
    (hostWord (idle [6#3] []).cfg (.other 0x2400#16) = some 0x2400#16 ∧ (idle [6#3] []).seq = .ready ∧
      (idle [6#3] []).statusIn = 6#3 :: []) ∧
    (hostWord (idle [7#3] []).cfg (.readStatus 0xF32D#16) = some 0xF32D#16 ∧ (idle [7#3] []).seq = .ready ∧
      (idle [7#3] []).statusIn = 7#3 :: []) ∧
    ((cont [7#3] []).seq = .ready ∧ (cont [7#3] []).stretch = .noStretch ∧ (cont [7#3] []).mode = .continuous ∧
      (cont [7#3] []).statusIn = 7#3 :: []) := by
  decide

theorem witness_ContractBreakersAreRefused_measurement_reads :
    ((idle [] [List.replicate 7 0#8]).seq = .ready ∧ (idle [] [List.replicate 7 0#8]).stretch = .noStretch ∧
      (idle [] [List.replicate 7 0#8]).mode = .idle ∧
      ((idle [] [List.replicate 7 0#8]).setStretch .stretch).stretch = .stretch ∧
      (idle [] [List.replicate 7 0#8]).bytesIn = List.replicate 7 0#8 :: [] ∧ 6 < (List.replicate 7 0#8).length) ∧
    ((cont [0#3] [List.replicate 7 0#8]).seq = .ready ∧ (cont [0#3] [List.replicate 7 0#8]).stretch = .noStretch ∧
      (cont [0#3] [List.replicate 7 0#8]).mode = .continuous ∧
      (cont [0#3] [List.replicate 7 0#8]).statusIn = TransportStatus.code .success :: [] ∧
      (cont [0#3] [List.replicate 7 0#8]).bytesIn = List.replicate 7 0#8 :: []) := by
  decide

/-- EX with the identity as its table. -/
def identityTable : Config := { configEx with crcTable := Vector.ofFn fun i => BitVec.ofFin i }

theorem witness_InjectiveTableDetectsBitFlips :
    ∀ a b : Byte, identityTable.crcTable[a.toNat] = identityTable.crcTable[b.toNat] → a = b := by
  simp [identityTable]

theorem witness_ExampleCrcDetectsBitFlips :
    firstOk configEx #v[0xFB#8, 0x80#8, 0x00#8, 0x91#8, 0x12#8, 0x34#8] = true ∧
    secondOk configEx #v[0xFB#8, 0x80#8, 0x00#8, 0x91#8, 0x12#8, 0x34#8] = true := by
  decide +kernel

/-- A frame of six bytes that differ from each other and from the sentinel. -/
def sixBytes : Frame := #v[0x00#8, 0x01#8, 0x02#8, 0x03#8, 0x04#8, 0x05#8]

/-- The boundary bytes 2, 3 and 5, for both frame lengths: NoneValid (R79). -/
theorem witness_MaskOverwritesInvalidBytesOnly_noneValid :
    ((6 = 6 ∨ 6 = 3) ∧ Classification.noneValid = .noneValid ∧ 5 < 6 ∧ (mask configEx 6 .noneValid sixBytes)[2] = 0xFF#8 ∧
      (mask configEx 6 .noneValid sixBytes)[3] = 0xFF#8 ∧ (mask configEx 6 .noneValid sixBytes)[5] = 0xFF#8) ∧
    ((3 = 6 ∨ 3 = 3) ∧ 2 < 3 ∧ ¬ 3 < 3 ∧ (mask configEx 3 .noneValid sixBytes)[2] = 0xFF#8 ∧
      (mask configEx 3 .noneValid sixBytes)[3] = 0x03#8 ∧ (mask configEx 3 .noneValid sixBytes)[5] = 0x05#8) := by
  decide

/-- OnlySecondFieldValid (R81). -/
theorem witness_MaskOverwritesInvalidBytesOnly_onlySecond :
    ((6 = 6 ∨ 6 = 3) ∧ 2 < 3 ∧ ¬ 3 < 3 ∧ (mask configEx 6 .onlySecond sixBytes)[2] = 0xFF#8 ∧
      (mask configEx 6 .onlySecond sixBytes)[3] = 0x03#8 ∧ (mask configEx 6 .onlySecond sixBytes)[5] = 0x05#8) ∧
    ((3 = 6 ∨ 3 = 3) ∧ (mask configEx 3 .onlySecond sixBytes)[2] = 0xFF#8 ∧
      (mask configEx 3 .onlySecond sixBytes)[3] = 0x03#8) := by
  decide

/-- OnlyFirstFieldValid, and its guard on the length (R80). -/
theorem witness_MaskOverwritesInvalidBytesOnly_onlyFirst :
    ((6 = 6 ∨ 6 = 3) ∧ 3 < 6 ∧ ¬ 3 ≤ 2 ∧ 3 ≤ 3 ∧ (mask configEx 6 .onlyFirst sixBytes)[2] = 0x02#8 ∧
      (mask configEx 6 .onlyFirst sixBytes)[3] = 0xFF#8 ∧ (mask configEx 6 .onlyFirst sixBytes)[5] = 0xFF#8) ∧
    ((3 = 6 ∨ 3 = 3) ∧ ¬ 3 < 3 ∧ (mask configEx 3 .onlyFirst sixBytes)[2] = 0x02#8 ∧
      (mask configEx 3 .onlyFirst sixBytes)[3] = 0x03#8 ∧ (mask configEx 3 .onlyFirst sixBytes)[5] = 0x05#8) := by
  decide

/-- AllValid (R82). -/
theorem witness_MaskOverwritesInvalidBytesOnly_allValid :
    ((6 = 6 ∨ 6 = 3) ∧ (mask configEx 6 .allValid sixBytes)[2] = 0x02#8 ∧
      (mask configEx 6 .allValid sixBytes)[3] = 0x03#8 ∧ (mask configEx 6 .allValid sixBytes)[5] = 0x05#8) ∧
    ((3 = 6 ∨ 3 = 3) ∧ (mask configEx 3 .allValid sixBytes)[2] = 0x02#8) := by
  decide

theorem witness_InvalidFieldsAreAnsweredAsFFFF :
    configEx.sentinel = 0xFF#8 ∧ measClass configEx [] = .noneValid ∧
    measClass configEx [0x00#8, 0x80#8, 0x00#8, 0xFB#8, 0x80#8, 0x00#8] = .onlySecond ∧
    measClass configEx [0x93#8, 0x66#8, 0x66#8, 0x92#8, 0x66#8, 0x66#8] = .onlyFirst ∧
    regClass configEx [0x94#8, 0x80#8, 0x10#8] (Vector.replicate 6 0#8) = .noneValid := by
  decide +kernel

theorem witness_StretchPreferenceIsTheHighByte :
    (0x2CFF#16).extractLsb' 8 8 = configEx.stretchMsb ∧ (0x2B32#16).extractLsb' 8 8 ≠ configEx.stretchMsb := by
  decide

theorem witness_DispatchCaseTable :
    isCont configEx 0x2032#16 = true ∧ isCont configEx 0x2031#16 = false ∧ isFetch configEx 0x2031#16 = false ∧
    isCont configEx 0xE000#16 = false ∧ isFetch configEx 0xE000#16 = true ∧ isCont configEx 0x2B32#16 = true := by
  decide

/-- A measurement frame with both checksums right (V-A2). -/
def measBytes : List Byte := [0x93#8, 0x66#8, 0x66#8, 0x91#8, 0x12#8, 0x34#8]

/-- A register frame with its checksum right (V-S1). -/
def regBytes : List Byte := [0x95#8, 0x80#8, 0x10#8]

/-- The instructions that dispatch a continuous-family word of EX. -/
def contRows : List (Instr × CmdWord) :=
  [(.dispatch 0x2130#16, 0x2130#16), (.cont0, 0x2032#16), (.cont1, 0x2130#16), (.cont2, 0x2236#16), (.cont3, 0x2334#16),
    (.cont4, 0x2737#16), (.cont5, 0x2B32#16)]

/-- The instructions that dispatch any other word of EX. -/
def otherRows : List (Instr × CmdWord) :=
  [(.dispatch 0x2C06#16, 0x2C06#16), (.fetch, 0xE000#16), (.stop, 0x3093#16), (.heaterEn, 0x306D#16),
    (.heaterDis, 0x3066#16), (.statusRead, 0xF32D#16), (.statusClear, 0x3041#16), (.other 0xFFFF#16, 0xFFFF#16)]

/-- Those of them that leave Continuous. -/
def leavingRows : List (Instr × CmdWord) :=
  [(.dispatch 0x2C06#16, 0x2C06#16), (.stop, 0x3093#16), (.other 0x2400#16, 0x2400#16)]

/-- Those of them that are side commands. -/
def sideRows : List (Instr × CmdWord) :=
  [(.dispatch 0x306D#16, 0x306D#16), (.heaterEn, 0x306D#16), (.heaterDis, 0x3066#16), (.statusRead, 0xF32D#16),
    (.statusClear, 0x3041#16)]

/-- A start, an early sample, one exactly at the end of the window, and one left. -/
def samples : List Time := [1000#32, 1015#32, 1016#32, 7#32]

/-- Continuous, with the samples above and answers to a stop and a word. -/
def leavingState : State := (cont [0#3, 3#3] []).setTimeIn samples

/-- Continuous, with the samples above and answers to a stop, a side command and the resume. -/
def sideState : State := (cont [0#3, 0#3, 3#3] []).setTimeIn samples

theorem witness_ContinuousWordFromIdleEnters :
    (∀ p ∈ contRows, dispatchedWord (idle [5#3] []).cfg p.1 = some p.2 ∧ isCont (idle [5#3] []).cfg p.2 = true) ∧
    (idle [5#3] []).seq = .ready ∧ (idle [5#3] []).mode = .idle ∧
    (idle [5#3] []).statusIn = TransportStatus.code .timeout :: [] := by
  decide

theorem witness_DirectDispatchSendsOnce_idle :
    (∀ p ∈ otherRows, dispatchedWord (idle [0#3] []).cfg p.1 = some p.2 ∧ isCont (idle [0#3] []).cfg p.2 = false) ∧
    (idle [0#3] []).seq = .ready ∧ (idle [0#3] []).mode = .idle ∧
    (idle [0#3] []).statusIn = TransportStatus.code .success :: [] := by
  decide

theorem witness_DirectDispatchSendsOnce_continuous :
    (∀ p ∈ (Instr.fetch, 0xE000#16) :: contRows, dispatchedWord (cont [0#3] []).cfg p.1 = some p.2 ∧
      (isCont (cont [0#3] []).cfg p.2 = true ∨ isFetch (cont [0#3] []).cfg p.2 = true)) ∧
    (cont [0#3] []).seq = .ready ∧ (cont [0#3] []).mode = .continuous ∧
    (cont [0#3] []).statusIn = TransportStatus.code .success :: [] := by
  decide

theorem witness_FailedStopAborts :
    (∀ p ∈ leavingRows ++ sideRows, dispatchedWord (cont [2#3] []).cfg p.1 = some p.2 ∧
      isCont (cont [2#3] []).cfg p.2 = false ∧ isFetch (cont [2#3] []).cfg p.2 = false) ∧
    (cont [2#3] []).seq = .ready ∧ (cont [2#3] []).mode = .continuous ∧ TransportStatus.addressNack ≠ .success ∧
    (cont [2#3] []).statusIn = TransportStatus.code .addressNack :: [] := by
  decide

theorem witness_LeavingContinuousStopsSettlesAndSends :
    (∀ p ∈ leavingRows, dispatchedWord leavingState.cfg p.1 = some p.2 ∧ isCont leavingState.cfg p.2 = false ∧
      isFetch leavingState.cfg p.2 = false ∧ isSide leavingState.cfg p.2 = false) ∧
    leavingState.seq = .ready ∧ leavingState.mode = .continuous ∧
    leavingState.statusIn = TransportStatus.code .success :: TransportStatus.code .dataNack :: [] ∧
    leavingState.timeIn = 1000#32 :: ([1015#32] ++ 1016#32 :: [7#32]) ∧
    1015#32 - 1000#32 < leavingState.cfg.settleMs ∧ leavingState.cfg.settleMs ≤ 1016#32 - 1000#32 := by
  decide

theorem witness_SideCommandIsFollowedByTheResume :
    (∀ p ∈ sideRows, dispatchedWord sideState.cfg p.1 = some p.2 ∧
      isCont sideState.cfg p.2 = false ∧ isFetch sideState.cfg p.2 = false ∧
      isSide sideState.cfg p.2 = true) ∧
    sideState.seq = .ready ∧ sideState.mode = .continuous ∧ sideState.lastContWritten = true ∧
    sideState.statusIn =
      TransportStatus.code .success :: TransportStatus.code .success :: TransportStatus.code .dataNack :: [] ∧
    sideState.timeIn = 1000#32 :: ([1015#32] ++ 1016#32 :: [7#32]) ∧
    1015#32 - 1000#32 < sideState.cfg.settleMs ∧ sideState.cfg.settleMs ≤ 1016#32 - 1000#32 := by
  decide

/-- Continuous with `LAST_CONT` unwritten, which no run from reset reaches (V-X3). -/
def unwritten : State := (State.reset.setMode .continuous).offer [0#3, 3#3] [] samples

theorem witness_UnwrittenLastContFaultsAtTheResume :
    (∀ p ∈ (Instr.readStatus 0xF32D#16, 0xF32D#16) :: sideRows, hostWord unwritten.cfg p.1 = some p.2 ∧
      isCont unwritten.cfg p.2 = false ∧ isFetch unwritten.cfg p.2 = false ∧ isSide unwritten.cfg p.2 = true) ∧
    unwritten.seq = .ready ∧ unwritten.mode = .continuous ∧ unwritten.lastContWritten = false ∧
    unwritten.statusIn = TransportStatus.code .success :: TransportStatus.code .dataNack :: [] ∧
    unwritten.timeIn = 1000#32 :: ([1015#32] ++ 1016#32 :: [7#32]) ∧
    1015#32 - 1000#32 < unwritten.cfg.settleMs ∧ unwritten.cfg.settleMs ≤ 1016#32 - 1000#32 := by
  decide

/-- Continuous with early samples only. -/
def early : State := (cont [0#3] []).setTimeIn [1000#32, 1000#32, 1015#32]

theorem witness_SettleWindowHoldsWhileSamplesAreEarly :
    dispatchedWord early.cfg (.other 0x2400#16) = some 0x2400#16 ∧ early.seq = .ready ∧ early.mode = .continuous ∧
    isCont early.cfg 0x2400#16 = false ∧ isFetch early.cfg 0x2400#16 = false ∧
    early.statusIn = TransportStatus.code .success :: [] ∧ early.timeIn = 1000#32 :: [1000#32, 1015#32] ∧
    1000#32 - 1000#32 < early.cfg.settleMs ∧ 1015#32 - 1000#32 < early.cfg.settleMs := by
  decide

theorem witness_DispatchLeavesTheReadSideAlone :
    dispatchedWord (idle [0#3] []).cfg .fetch = some 0xE000#16 ∧
    nextIs (exec .fetch (idle [0#3] [])) (fun t => t.seq == .ready) = true := by
  decide

theorem witness_DirectMeasurementRead :
    (idle [] [measBytes]).seq = .ready ∧
    ((idle [] [measBytes]).setStretch .stretch).stretch = .stretch ∧
    (idle [] [measBytes]).stretch = .noStretch ∧
    (idle [] [measBytes]).mode = .idle ∧
    (idle [] [measBytes]).bytesIn = measBytes :: [] ∧
    measBytes.length ≤ 6 := by
  decide

theorem witness_FetchedMeasurementRead :
    (cont [0#3] [measBytes]).seq = .ready ∧
    (cont [0#3] [measBytes]).stretch = .noStretch ∧
    (cont [0#3] [measBytes]).mode = .continuous ∧
    (cont [0#3] [measBytes]).statusIn = TransportStatus.code .success :: [] ∧
    (cont [0#3] [measBytes]).bytesIn = measBytes :: [] ∧
    measBytes.length ≤ 6 := by
  decide

theorem witness_MeasurementWithoutBytesIsAllInvalid :
    (idle [] [[]]).seq = .ready ∧ (idle [] [[]]).cfg.sentinel = 0xFF#8 ∧
    ((idle [] [[]]).setStretch .unknown).stretch = .unknown ∧ ((idle [] [[]]).setStretch .reserved).stretch = .reserved ∧
    ((cont [3#3] []).seq = .ready ∧ (cont [3#3] []).cfg.sentinel = 0xFF#8 ∧ (cont [3#3] []).stretch = .noStretch ∧
      (cont [3#3] []).mode = .continuous ∧ TransportStatus.dataNack ≠ .success ∧
      (cont [3#3] []).statusIn = TransportStatus.code .dataNack :: []) ∧
    ((idle [] [[]]).stretch = .noStretch ∧ (idle [] [[]]).mode = .idle ∧ (idle [] [[]]).bytesIn = [] :: []) ∧
    (((idle [] [[]]).setStretch .stretch).stretch = .stretch ∧ ((idle [] [[]]).setStretch .stretch).seq = .ready ∧
      ((idle [] [[]]).setStretch .stretch).bytesIn = [] :: []) ∧
    ((cont [0#3] [[]]).seq = .ready ∧ (cont [0#3] [[]]).cfg.sentinel = 0xFF#8 ∧ (cont [0#3] [[]]).stretch = .noStretch ∧
      (cont [0#3] [[]]).mode = .continuous ∧ (cont [0#3] [[]]).statusIn = TransportStatus.code .success :: [] ∧
      (cont [0#3] [[]]).bytesIn = [] :: []) := by
  decide

theorem witness_MeasurementKeepsTheSession :
    ((idle [] []).seq = .ready ∧ nextIs (exec (.readMeas true) (idle [] [])) (fun t => t.seq == .rmRead) = true ∧
      ¬ ((idle [] []).stretch = .noStretch ∧ (idle [] []).mode = .continuous)) ∧
    ((cont [3#3] []).seq = .ready ∧ nextIs (exec (.readMeas true) (cont [3#3] [])) (fun t => t.seq == .ready) = true ∧
      (cont [3#3] []).stretch = .noStretch ∧ (cont [3#3] []).mode = .continuous ∧
      isCont (cont [3#3] []).cfg (cont [3#3] []).cfg.cmdFetch = false) := by
  decide +kernel

theorem witness_StatusReadOnTheDirectPath :
    (idle [0#3] [regBytes]).seq = .ready ∧ (idle [0#3] [regBytes]).mode = .idle ∧
    isCont (idle [0#3] [regBytes]).cfg 0xF32D#16 = false ∧
    (idle [0#3] [regBytes]).statusIn = TransportStatus.code .success :: [] ∧
    0xF32D#16 = (idle [0#3] [regBytes]).cfg.cmdStatusRead ∧
    (idle [0#3] [regBytes]).bytesIn = regBytes :: [] ∧ regBytes.length ≤ 3 := by
  decide

theorem witness_StatusReadOnTheDirectPath_no_read :
    ((idle [2#3] []).seq = .ready ∧ (idle [2#3] []).mode = .idle ∧ isCont (idle [2#3] []).cfg 0xF32D#16 = false ∧
      (idle [2#3] []).statusIn = TransportStatus.code .addressNack :: [] ∧ TransportStatus.addressNack ≠ .success) ∧
    ((cont [0#3] []).seq = .ready ∧ (cont [0#3] []).mode = .continuous ∧ isCont (cont [0#3] []).cfg 0x2236#16 = true ∧
      isFetch (cont [0#3] []).cfg 0xE000#16 = true ∧
      (cont [0#3] []).statusIn = TransportStatus.code .success :: [] ∧ 0x2236#16 ≠ (cont [0#3] []).cfg.cmdStatusRead ∧
      0xE000#16 ≠ (cont [0#3] []).cfg.cmdStatusRead) := by
  decide

theorem witness_StatusReadIsDispatchThenRead :
    (idle [0#3] [regBytes]).seq = .ready ∧
    nextIs (exec (.dispatch 0xF32D#16) (idle [0#3] [regBytes]))
      (fun t => t.seq == .ready && t.log == [wr 0xF3#8 0x2D#8 .success] ++ [.response (.status 0#3)]) = true ∧
    0#3 = TransportStatus.code .success ∧ isStatusRead (idle [0#3] [regBytes]).cfg 0xF32D#16 = true ∧
    (idle [0#3] [regBytes]).bytesIn = regBytes :: [] ∧ regBytes.length ≤ 3 := by
  decide

theorem witness_StatusReadIsDispatchThenRead_no_read :
    (idle [0#3] []).seq = .ready ∧
    nextIs (exec (.dispatch 0x3041#16) (idle [0#3] []))
      (fun t => t.seq == .ready && t.log == [wr 0x30#8 0x41#8 .success] ++ [.response (.status 0#3)]) = true ∧
    isStatusRead (idle [0#3] []).cfg 0x3041#16 = false := by
  decide

/-- Continuous, with answers to a stop, a status read, a resume and the register read, and a window that ends at once. -/
def resumed : State := (cont [0#3, 0#3, 3#3] [regBytes]).setTimeIn [1000#32, 1016#32]

theorem witness_StatusReadInContinuousReadsAfterTheResume :
    resumed.seq = .ready ∧ resumed.mode = .continuous ∧ resumed.lastContWritten = true ∧
    isCont resumed.cfg resumed.cfg.cmdStatusRead = false ∧ isFetch resumed.cfg resumed.cfg.cmdStatusRead = false ∧
    resumed.statusIn =
      TransportStatus.code .success :: TransportStatus.code .success :: TransportStatus.code .dataNack :: [] ∧
    resumed.timeIn = 1000#32 :: 1016#32 :: [] ∧ resumed.cfg.settleMs ≤ 1016#32 - 1000#32 ∧
    resumed.bytesIn = regBytes :: [] ∧ regBytes.length ≤ 3 := by
  decide

theorem witness_StepKeepsLastContSafe :
    (waiting.mode = .continuous → waiting.lastContWritten = true) ∧ (waiting.seq.inHalt = true → waiting.mode = .continuous) ∧
    waiting.mode = .continuous ∧ waiting.seq.inHalt = true ∧
    nextIs (step waiting) (fun t => t.mode == .continuous) = true := by
  decide

theorem witness_SafeStatesNeverFault :
    LastContSafe waiting := by
  unfold LastContSafe; decide

theorem witness_StepKeepsStretchSafe :
    waiting.cfg.WF2 ∧ StretchSafe waiting ∧ nextIs (step waiting) (fun t => t.mode == .continuous) = true := by
  exact ⟨test_ex_meets_wf2, by unfold StretchSafe; decide, by decide⟩

/-- The window of a single-shot word that leaves Continuous: the preference is already Stretch. -/
def leaving : State :=
  (((cont [] []).setStretch .stretch).setWork { Work.clear with cmd := 0x2C06#16 }).goto (.dsp .dispatch .settle)

theorem witness_StepKeepsStretchSafe_in_the_window :
    leaving.cfg.WF2 ∧ StretchSafe leaving ∧ leaving.mode = .continuous ∧ leaving.stretch = .stretch := by
  exact ⟨test_ex_meets_wf2, by unfold StretchSafe; decide, rfl, rfl⟩

theorem witness_ContinuousIsNeverStretchingBetweenRequests :
    configEx.WF2 ∧ nextIs (step (((State.resetOf configEx).present [0x02130#19]).offer [0#3] [] []))
      (fun t => t.seq == .ready && t.mode == .continuous) = true := by
  exact ⟨test_ex_meets_wf2, by decide⟩

theorem witness_NoStepChangesAddrOrTheConfiguration :
    nextIs (step waiting) (fun t => t.seq == waiting.seq) = true ∧ AddrFixed waiting := by
  unfold AddrFixed; decide

theorem witness_PortEventsKeepTheirContract :
    nextIs (step ((idle [] [measBytes]).present [0x20000#19]))
      (fun t => t.log.length == 2) = true := by
  decide +kernel

theorem witness_OnlyFourKindsOfWordAreSent :
    (cont [0#3, 0#3, 0#3] []).seq = .ready ∧
    nextIs (exec .heaterDis (cont [0#3, 0#3, 0#3] [])) (fun t => t.log.length == 9) = true := by
  decide

theorem witness_ModeChangesOnlyByDispatch :
    ((idle [0#3] []).seq = .ready ∧ (idle [0#3] []).mode = .idle ∧
      nextIs (exec .cont5 (idle [0#3] [])) (fun t => t.mode == .continuous) = true) ∧
    ((cont [0#3, 0#3] []).seq = .ready ∧ (cont [0#3, 0#3] []).mode = .continuous ∧
      nextIs (exec .stop (cont [0#3, 0#3] [])) (fun t => t.mode == .idle) = true) := by
  decide

theorem witness_FrameResidueIsNotObservable :
    (idle [0#3] [regBytes]).seq = .ready ∧
    nextIs (exec (.readStatus 0xF32D#16) (idle [0#3] [regBytes])) (fun t => t.seq == .ready) = true := by
  decide +kernel

/-- Continuous, with a samples list that ends the window, and a contract breaker as the answer to the word. -/
def breaksAtWord : State := (cont [0#3, 6#3] []).setTimeIn samples

/-- The same with the breaker as the answer to the resume. -/
def breaksAtResume : State := (cont [0#3, 3#3, 7#3] []).setTimeIn samples

/-- The same with a register read of four bytes after the resume. -/
def breaksAtRead : State := (cont [0#3, 0#3, 3#3] [List.replicate 4 0#8]).setTimeIn samples

theorem witness_ContractBreakersInsideARequestAreRefused_word :
    (∀ p ∈ (Instr.readStatus 0x2400#16, 0x2400#16) :: leavingRows ++ sideRows, hostWord breaksAtWord.cfg p.1 = some p.2 ∧
      isCont breaksAtWord.cfg p.2 = false ∧ isFetch breaksAtWord.cfg p.2 = false) ∧
    breaksAtWord.seq = .ready ∧ breaksAtWord.mode = .continuous ∧
    breaksAtWord.statusIn = TransportStatus.code .success :: 6#3 :: [] ∧
    breaksAtWord.timeIn = 1000#32 :: ([1015#32] ++ 1016#32 :: [7#32]) ∧
    1015#32 - 1000#32 < breaksAtWord.cfg.settleMs ∧ breaksAtWord.cfg.settleMs ≤ 1016#32 - 1000#32 := by
  decide

theorem witness_ContractBreakersInsideARequestAreRefused_resume :
    (∀ p ∈ (Instr.readStatus 0xF32D#16, 0xF32D#16) :: sideRows, hostWord breaksAtResume.cfg p.1 = some p.2 ∧
      isCont breaksAtResume.cfg p.2 = false ∧ isFetch breaksAtResume.cfg p.2 = false ∧
      isSide breaksAtResume.cfg p.2 = true) ∧
    breaksAtResume.seq = .ready ∧ breaksAtResume.mode = .continuous ∧ breaksAtResume.lastContWritten = true ∧
    breaksAtResume.statusIn = TransportStatus.code .success :: TransportStatus.code .dataNack :: 7#3 :: [] ∧
    breaksAtResume.timeIn = 1000#32 :: ([1015#32] ++ 1016#32 :: [7#32]) ∧
    1015#32 - 1000#32 < breaksAtResume.cfg.settleMs ∧ breaksAtResume.cfg.settleMs ≤ 1016#32 - 1000#32 := by
  decide

theorem witness_ContractBreakersInsideARequestAreRefused_read :
    ((idle [0#3] [List.replicate 4 0#8]).seq = .ready ∧
      (idle [0#3] [List.replicate 4 0#8]).bytesIn = List.replicate 4 0#8 :: [] ∧ 3 < (List.replicate 4 0#8).length ∧
      (idle [0#3] [List.replicate 4 0#8]).mode = .idle ∧
      isCont (idle [0#3] [List.replicate 4 0#8]).cfg (idle [0#3] [List.replicate 4 0#8]).cfg.cmdStatusRead = false ∧
      (idle [0#3] [List.replicate 4 0#8]).statusIn = TransportStatus.code .success :: []) ∧
    breaksAtRead.seq = .ready ∧ breaksAtRead.mode = .continuous ∧ breaksAtRead.lastContWritten = true ∧
    breaksAtRead.bytesIn = List.replicate 4 0#8 :: [] ∧ isCont breaksAtRead.cfg breaksAtRead.cfg.cmdStatusRead = false ∧
    isFetch breaksAtRead.cfg breaksAtRead.cfg.cmdStatusRead = false ∧
    breaksAtRead.statusIn =
      TransportStatus.code .success :: TransportStatus.code .success :: TransportStatus.code .dataNack :: [] ∧
    breaksAtRead.timeIn = 1000#32 :: ([1015#32] ++ 1016#32 :: [7#32]) ∧
    1015#32 - 1000#32 < breaksAtRead.cfg.settleMs ∧ breaksAtRead.cfg.settleMs ≤ 1016#32 - 1000#32 := by
  decide

end Sys2Proof.Tests
end

section
/-! PROOFS. Scope: what the decoder answers on each form of request word, what it answers on a word of no command row, and
the words of the spec's vectors V-R8 to V-R12 decoded by these rules. -/

namespace Sys2Proof

/-! ## Request words by their form (R55, R59) -/

@[simp] theorem decodeRequest_dispatchWord (c : CmdWord) :
    decodeRequest (requestWord 0#2 false c) = .ok (.dispatch c) := by
  simp [decodeRequest]

@[simp] theorem decodeRequest_readMeasWord (cv : Bool) :
    decodeRequest (requestWord 1#2 cv 0#16) = .ok (.readMeas cv) := by
  simp [decodeRequest]

@[simp] theorem decodeRequest_readStatusWord (c : CmdWord) :
    decodeRequest (requestWord 2#2 false c) = .ok (.readStatus c) := by
  simp [decodeRequest]

@[simp] theorem decodeRequest_reservedWord (bits : BitVec 17) :
    decodeRequest (3#2 ++ bits) = .ok (.reserved bits) := by
  simp [decodeRequest]

@[simp] theorem decodeRequest_dispatchWord_cv (c : CmdWord) :
    decodeRequest (requestWord 0#2 true c) = .error .reservedBits := by
  simp [decodeRequest]

theorem decodeRequest_readMeasWord_cmd (cv : Bool) {c : CmdWord} (hc : c ≠ 0#16) :
    decodeRequest (requestWord 1#2 cv c) = .error .reservedBits := by
  simp [decodeRequest, hc]

@[simp] theorem decodeRequest_readStatusWord_cv (c : CmdWord) :
    decodeRequest (requestWord 2#2 true c) = .error .reservedBits := by
  simp [decodeRequest]

/-! ## Command words (R54, R63) -/

/-- A word that no named row has decodes to the default row. -/
theorem decodeCommand_other {cfg : Config} {c : CmdWord} (h : ∀ row ∈ commandRows cfg, row.1 ≠ c) :
    decodeCommand cfg c = .other c := by
  rcases decodeCommand_cases cfg c with hrow | ⟨hother, _⟩
  · exact absurd rfl (h _ hrow)
  · exact hother

open Machine in
/-- The twelve command words of EX are pairwise distinct (R9, R10). -/
theorem configEx_wf1 : configEx.WF1 := by decide

open Machine in
/-- A named row of EX is what its word decodes to. -/
theorem decodeCommand_configEx_row {c : CmdWord} {i : Instr} (h : (c, i) ∈ commandRows configEx) :
    decodeCommand configEx c = i :=
  decodeCommand_row configEx_wf1 h

/-- Settles O1: each request word is one of the forms above, each command word stands in EX's rows or in none of them. -/
theorem specWordsDecode : Obligations.SpecWordsDecode := by
  unfold Obligations.SpecWordsDecode
  refine ⟨?dispatch, ?readMeas, ?readMeasRaw, ?readStatus, ?reserved, ?dispatchCv, ?readMeasCmd, ?readStatusCv,
    ?cont1, ?fetch, ?stop, ?heaterDis, ?statusRead, ?other2C06, ?other2400, ?statusClear, ?classes⟩
  case dispatch => exact decodeRequest_dispatchWord 0x2130#16
  case readMeas => exact decodeRequest_readMeasWord true
  case readMeasRaw => exact decodeRequest_readMeasWord false
  case readStatus => exact decodeRequest_readStatusWord 0xF32D#16
  case reserved => exact decodeRequest_reservedWord 0#17
  case dispatchCv => exact decodeRequest_dispatchWord_cv 0x2130#16
  case readMeasCmd => exact decodeRequest_readMeasWord_cmd false (c := 1#16) (by decide)
  case readStatusCv => exact decodeRequest_readStatusWord_cv 0xF32D#16
  case cont1 | fetch | stop | heaterDis | statusRead | statusClear =>
    exact decodeCommand_configEx_row (by decide)
  case other2C06 | other2400 => exact decodeCommand_other (by decide)
  case classes => decide

end Sys2Proof
end

section
/-! PROOFS. Scope: the request codec on an arbitrary word: which fields a mask of the opcode table reads, what the decoder
answers for each value of `op`, which presented words a READY step refuses, and the stretch preference of a command word. -/

namespace Sys2Proof

/-! ## Masks of request words (R55, R67) -/

theorem requestWord_and (op op' : BitVec 2) (cv cv' : Bool) (cmd cmd' : CmdWord) :
    requestWord op cv cmd &&& requestWord op' cv' cmd' = requestWord (op &&& op') (cv && cv') (cmd &&& cmd') :=
  BitVec.and_append.trans (by rw [BitVec.and_append, BitVec.ofBool_and_ofBool]; rfl)

theorem requestWord_inj {op op' : BitVec 2} {cv cv' : Bool} {cmd cmd' : CmdWord} :
    requestWord op cv cmd = requestWord op' cv' cmd' ↔ op = op' ∧ cv = cv' ∧ cmd = cmd' := by
  constructor
  · intro h
    exact ⟨by simpa using congrArg reqOp h, by simpa using congrArg reqCv h, by simpa using congrArg reqCmd h⟩
  · rintro ⟨rfl, rfl, rfl⟩
    rfl

/-- A mask and a value written as request words compare each of the three fields on its own. -/
theorem and_requestWord_eq_iff (w : ReqWord) (op op' : BitVec 2) (cv cv' : Bool) (cmd cmd' : CmdWord) :
    w &&& requestWord op cv cmd = requestWord op' cv' cmd' ↔
      reqOp w &&& op = op' ∧ (reqCv w && cv) = cv' ∧ reqCmd w &&& cmd = cmd' := by
  rw [← requestWord_inj, ← requestWord_and, requestWord_fields]

/-- The row of `DISPATCH`. -/
theorem dispatchMask_iff (w : ReqWord) : w &&& 0x70000#19 = 0x00000#19 ↔ reqOp w = 0#2 ∧ reqCv w = false :=
  (and_requestWord_eq_iff w (BitVec.allOnes 2) 0#2 true false 0#16 0#16).trans (by rw [BitVec.and_allOnes]; simp)

/-- The row of `READ_MEAS`. -/
theorem readMeasMask_iff (w : ReqWord) : w &&& 0x6FFFF#19 = 0x20000#19 ↔ reqOp w = 1#2 ∧ reqCmd w = 0#16 :=
  (and_requestWord_eq_iff w (BitVec.allOnes 2) 1#2 false false (BitVec.allOnes 16) 0#16).trans
    (by rw [BitVec.and_allOnes, BitVec.and_allOnes]; simp)

/-- The row of `READ_STATUS`. -/
theorem readStatusMask_iff (w : ReqWord) : w &&& 0x70000#19 = 0x40000#19 ↔ reqOp w = 2#2 ∧ reqCv w = false :=
  (and_requestWord_eq_iff w (BitVec.allOnes 2) 2#2 true false 0#16 0#16).trans (by rw [BitVec.and_allOnes]; simp)

/-- The row of `RESERVED`. -/
theorem reservedMask_iff (w : ReqWord) : w &&& 0x60000#19 = 0x60000#19 ↔ reqOp w = 3#2 :=
  (and_requestWord_eq_iff w (BitVec.allOnes 2) 3#2 false false 0#16 0#16).trans (by rw [BitVec.and_allOnes]; simp)

/-! ## The decoder, one equation per `op` (R55, R59) -/

theorem reqOp_cases (w : ReqWord) : reqOp w = 0#2 ∨ reqOp w = 1#2 ∨ reqOp w = 2#2 ∨ reqOp w = 3#2 := by
  have four : ∀ op : BitVec 2, op = 0#2 ∨ op = 1#2 ∨ op = 2#2 ∨ op = 3#2 := by decide
  exact four (reqOp w)

theorem decodeRequest_of_op_dispatch {w : ReqWord} (h : reqOp w = 0#2) :
    decodeRequest w = if reqCv w then .error .reservedBits else .ok (.dispatch (reqCmd w)) := by
  simp [decodeRequest, h]

theorem decodeRequest_of_op_readMeas {w : ReqWord} (h : reqOp w = 1#2) :
    decodeRequest w = if reqCmd w = 0#16 then .ok (.readMeas (reqCv w)) else .error .reservedBits := by
  simp [decodeRequest, h]

theorem decodeRequest_of_op_readStatus {w : ReqWord} (h : reqOp w = 2#2) :
    decodeRequest w = if reqCv w then .error .reservedBits else .ok (.readStatus (reqCmd w)) := by
  simp [decodeRequest, h]

theorem decodeRequest_of_op_reserved {w : ReqWord} (h : reqOp w = 3#2) :
    decodeRequest w = .ok (.reserved (reqRest w)) := by
  simp [decodeRequest, h]

/-- A request word with a non-zero bit in a field that its operation does not use (R59). -/
def HasUnusedBits (w : ReqWord) : Prop :=
  ((reqOp w = 0#2 ∨ reqOp w = 2#2) ∧ reqCv w = true) ∨ (reqOp w = 1#2 ∧ reqCmd w ≠ 0#16)

theorem decodeRequest_of_hasUnusedBits {w : ReqWord} (h : HasUnusedBits w) :
    decodeRequest w = .error .reservedBits := by
  rcases h with ⟨hop | hop, hcv⟩ | ⟨hop, hcmd⟩
  · rw [decodeRequest_of_op_dispatch hop, if_pos hcv]
  · rw [decodeRequest_of_op_readStatus hop, if_pos hcv]
  · rw [decodeRequest_of_op_readMeas hop, if_neg hcmd]

/-- A word that matches no row of the opcode table has a non-zero unused field (R67). -/
theorem hasUnusedBits_of_no_row {w : ReqWord} (hdispatch : ¬ (reqOp w = 0#2 ∧ reqCv w = false))
    (hreadMeas : ¬ (reqOp w = 1#2 ∧ reqCmd w = 0#16)) (hreadStatus : ¬ (reqOp w = 2#2 ∧ reqCv w = false))
    (hreserved : reqOp w ≠ 3#2) : HasUnusedBits w := by
  rcases reqOp_cases w with hop | hop | hop | hop
  · exact .inl ⟨.inl hop, Bool.eq_true_of_not_eq_false fun hcv => hdispatch ⟨hop, hcv⟩⟩
  · exact .inr ⟨hop, fun hcmd => hreadMeas ⟨hop, hcmd⟩⟩
  · exact .inl ⟨.inr hop, Bool.eq_true_of_not_eq_false fun hcv => hreadStatus ⟨hop, hcv⟩⟩
  · exact absurd hop hreserved

/-- Settles O2: each mask compares the fields its row names, and the decoder's equation for that `op` gives the rest. -/
theorem requestFieldsDecode : Obligations.RequestFieldsDecode := by
  unfold Obligations.RequestFieldsDecode
  intro w
  simp only [ne_eq, dispatchMask_iff, readMeasMask_iff, readStatusMask_iff, reservedMask_iff]
  refine ⟨?dispatch, ?readMeas, ?readStatus, ?reserved, ?rejected⟩
  case dispatch =>
    rintro ⟨hop, hcv⟩
    exact (decodeRequest_of_op_dispatch hop).trans (if_neg (by simp [hcv]))
  case readMeas =>
    rintro ⟨hop, hcmd⟩
    exact (decodeRequest_of_op_readMeas hop).trans (if_pos hcmd)
  case readStatus =>
    rintro ⟨hop, hcv⟩
    exact (decodeRequest_of_op_readStatus hop).trans (if_neg (by simp [hcv]))
  case reserved => exact decodeRequest_of_op_reserved
  case rejected =>
    intro hdispatch hreadMeas hreadStatus hreserved
    exact decodeRequest_of_hasUnusedBits (hasUnusedBits_of_no_row hdispatch hreadMeas hreadStatus hreserved)

end Sys2Proof

namespace Sys2Proof.Machine

/-! ## What a READY step does with the first presented word (R31, R59) -/

theorem nextRequest_cons {s : State} {w : ReqWord} {later : List ReqWord} (h : s.requests = w :: later) :
    nextRequest s = some w := by
  simp [nextRequest, h]

theorem step_of_decodeRequest_ok {s : State} {w : ReqWord} {later : List ReqWord} {i : Instr} (hready : s.seq = .ready)
    (hreq : s.requests = w :: later) (hdec : decodeRequest w = .ok i) : step s = exec i s := by
  simp [step, hready, nextRequest_cons hreq, hdec]

theorem step_of_decodeRequest_error {s : State} {w : ReqWord} {later : List ReqWord} {e : DecodeError}
    (hready : s.seq = .ready) (hreq : s.requests = w :: later) (hdec : decodeRequest w = .error e) :
    step s = .refused (refusalOf e) := by
  simp [step, hready, nextRequest_cons hreq, hdec]

@[simp] theorem exec_reserved (bits : BitVec 17) (s : State) : exec (.reserved bits) s = .refused .reservedOp := rfl

/-- Settles O9: a READY step refuses what the decoder rejects, and runs the refused instruction for `op` 3. -/
theorem reservedRequestsAreRefused : Obligations.ReservedRequestsAreRefused := by
  unfold Obligations.ReservedRequestsAreRefused
  refine ⟨exec_reserved, ?reservedOp, ?reservedBits⟩
  case reservedOp =>
    intro s w later hready hreq hop
    exact (step_of_decodeRequest_ok hready hreq (decodeRequest_of_op_reserved hop)).trans (exec_reserved _ s)
  case reservedBits =>
    intro s w later hready hreq hunused
    exact step_of_decodeRequest_error hready hreq (decodeRequest_of_hasUnusedBits hunused)

/-! ## The stretch preference (R53) -/

theorem stretchOf_of_hi_eq {cfg : Config} {c : CmdWord} (h : hi c = cfg.stretchMsb) : stretchOf cfg c = .stretch :=
  if_pos h

theorem stretchOf_of_hi_ne {cfg : Config} {c : CmdWord} (h : hi c ≠ cfg.stretchMsb) : stretchOf cfg c = .noStretch :=
  if_neg h

/-- Settles O18: bits 15:8 are the high byte (R84), on which `stretch_of` branches. -/
theorem stretchPreferenceIsTheHighByte : Obligations.StretchPreferenceIsTheHighByte := by
  unfold Obligations.StretchPreferenceIsTheHighByte
  exact fun _ _ => ⟨stretchOf_of_hi_eq, stretchOf_of_hi_ne⟩

end Sys2Proof.Machine
end

section
/-! PROOFS. Scope: the validity classification (40_crc_engine.md): what the two field checks compare, the class of a
measurement frame for each row of their truth table, and the class of a register frame, which reads the first check alone. -/

namespace Sys2Proof.Machine

/-! ## The field checks (R71) -/

theorem firstOk_iff {cfg : Config} {fr : Frame} : firstOk cfg fr = true ↔ checksum cfg [fr[2], fr[1]] = fr[0] :=
  beq_iff_eq

theorem secondOk_iff {cfg : Config} {fr : Frame} : secondOk cfg fr = true ↔ checksum cfg [fr[5], fr[4]] = fr[3] :=
  beq_iff_eq

/-! ## The class of a measurement frame: the code 3, less 1 for the second field and 2 for the first (R73, R74) -/

theorem validateMeas_of_both_ok {cfg : Config} {fr : Frame} (hfirst : firstOk cfg fr = true)
    (hsecond : secondOk cfg fr = true) : validateMeas cfg fr = .allValid := by
  simp [validateMeas, hfirst, hsecond, Classification.ofCode]

theorem validateMeas_of_first_ok_only {cfg : Config} {fr : Frame} (hfirst : firstOk cfg fr = true)
    (hsecond : secondOk cfg fr = false) : validateMeas cfg fr = .onlyFirst := by
  simp [validateMeas, hfirst, hsecond, Classification.ofCode]

theorem validateMeas_of_second_ok_only {cfg : Config} {fr : Frame} (hfirst : firstOk cfg fr = false)
    (hsecond : secondOk cfg fr = true) : validateMeas cfg fr = .onlySecond := by
  simp [validateMeas, hfirst, hsecond, Classification.ofCode]

theorem validateMeas_of_neither_ok {cfg : Config} {fr : Frame} (hfirst : firstOk cfg fr = false)
    (hsecond : secondOk cfg fr = false) : validateMeas cfg fr = .noneValid := by
  simp [validateMeas, hfirst, hsecond, Classification.ofCode]

/-- Settles O21: the two checks compare as R71 says, and the class is read off one row of their truth table. -/
theorem measurementClassFollowsTheFieldChecks : Obligations.MeasurementClassFollowsTheFieldChecks := by
  unfold Obligations.MeasurementClassFollowsTheFieldChecks
  intro cfg fr
  refine ⟨firstOk_iff, secondOk_iff, ?truthTable⟩
  cases hfirst : firstOk cfg fr with
  | true =>
    cases hsecond : secondOk cfg fr with
    | true => exact validateMeas_of_both_ok hfirst hsecond
    | false => exact validateMeas_of_first_ok_only hfirst hsecond
  | false =>
    cases hsecond : secondOk cfg fr with
    | true => exact validateMeas_of_second_ok_only hfirst hsecond
    | false => exact validateMeas_of_neither_ok hfirst hsecond

/-! ## The class of a register frame: the code 3, less 2 for the first field (R75) -/

theorem validateReg_of_first_ok {cfg : Config} {fr : Frame} (hfirst : firstOk cfg fr = true) :
    validateReg cfg fr = .onlyFirst := by
  simp [validateReg, hfirst, Classification.ofCode]

theorem validateReg_of_first_not_ok {cfg : Config} {fr : Frame} (hfirst : firstOk cfg fr = false) :
    validateReg cfg fr = .noneValid := by
  simp [validateReg, hfirst, Classification.ofCode]

/-- Settles O22: the comparison in the statement is the first field check (R71), on which alone the class depends. -/
theorem registerClassIsFirstFieldOnly : Obligations.RegisterClassIsFirstFieldOnly := by
  unfold Obligations.RegisterClassIsFirstFieldOnly
  intro cfg fr
  split
  case isTrue heq => exact validateReg_of_first_ok (firstOk_iff.mpr heq)
  case isFalse hne => exact validateReg_of_first_not_ok (Bool.eq_false_iff.mpr (mt firstOk_iff.mp hne))

end Sys2Proof.Machine
end

section
/-! PROOFS. Scope: the invalidation mask (41_invalidation_mask.md): byte `j` of a masked frame, one equation for each class. -/

namespace Sys2Proof.Machine

/-! ## The bytes of a masked frame, by class (R78) -/

theorem mask_noneValid_get (cfg : Config) (len : Nat) (fr : Frame) (j : Nat) (hj : j < 6) :
    (mask cfg len .noneValid fr)[j] = if j < len then cfg.sentinel else fr[j] := by
  simp [mask]

theorem mask_onlySecond_get (cfg : Config) (len : Nat) (fr : Frame) (j : Nat) (hj : j < 6) :
    (mask cfg len .onlySecond fr)[j] = if j < 3 then cfg.sentinel else fr[j] := by
  simp [mask]

/-- The fill ends at byte 5, the last of the buffer, so only its start bounds `j` (R80 for the guard on the length). -/
theorem mask_onlyFirst_get (cfg : Config) (len : Nat) (fr : Frame) (j : Nat) (hj : j < 6) :
    (mask cfg len .onlyFirst fr)[j] = if 3 < len ∧ 3 ≤ j then cfg.sentinel else fr[j] := by
  by_cases hlen : 3 < len
  · simp [mask, hlen, hj]
  · simp [mask, hlen]

theorem mask_allValid (cfg : Config) (len : Nat) (fr : Frame) : mask cfg len .allValid fr = fr := rfl

/-- Settles O26: under each class one disjunct of the statement's condition is left, the one of that class's equation. The
equations hold for every length, so that it is 6 or 3 is not used. -/
theorem maskOverwritesInvalidBytesOnly : Obligations.MaskOverwritesInvalidBytesOnly := by
  unfold Obligations.MaskOverwritesInvalidBytesOnly
  intro cfg len c fr j hj _
  cases c with
  | noneValid => simp [mask_noneValid_get]
  | onlySecond => simp [mask_onlySecond_get]
  | onlyFirst => simp [mask_onlyFirst_get]
  | allValid => simp [mask_allValid]

end Sys2Proof.Machine
end

section
/-! PROOFS. Scope: the request codec (42_request_codec.md): the two bytes of a command word, and which words each predicate
on command words takes. -/

namespace Sys2Proof.Machine

/-! ## The bytes of a command word (R84, R85) -/

theorem hi_toNat (c : CmdWord) : (hi c).toNat = c.toNat / 256 := by
  have hbound : c.toNat < 65536 := c.isLt
  rw [hi, BitVec.extractLsb'_toNat, Nat.shiftRight_eq_div_pow]
  omega

theorem lo_toNat (c : CmdWord) : (lo c).toNat = c.toNat % 256 := by
  rw [lo, BitVec.extractLsb'_toNat, Nat.shiftRight_zero]

/-- The two slices are adjacent and together cover all 16 bits. -/
theorem hi_append_lo (c : CmdWord) : hi c ++ lo c = c := by
  have hjoin : c.extractLsb' 8 8 ++ c.extractLsb' 0 8 = c.extractLsb' 0 (8 + 8) :=
    BitVec.extractLsb'_append_extractLsb'_eq_extractLsb' rfl
  exact hjoin.trans BitVec.extractLsb'_eq_self

/-- Settles O16: the two bytes as numbers, and the word they are cut from. -/
theorem commandBytesAreHighAndLow : Obligations.CommandBytesAreHighAndLow := by
  unfold Obligations.CommandBytesAreHighAndLow
  exact fun c => ⟨hi_toNat c, lo_toNat c, (hi_append_lo c).symm⟩

/-! ## The words each predicate takes (R86 to R89) -/

/-- The six comparisons of the definition are those with the members `0` to `5`, one for each index of `CONT_SET`. -/
theorem isCont_iff {cfg : Config} {c : CmdWord} : isCont cfg c = true ↔ ∃ k : Fin 6, c = cfg.contSet[k] := by
  simp [isCont, Fin.exists_fin_succ, or_assoc]

theorem isFetch_iff {cfg : Config} {c : CmdWord} : isFetch cfg c = true ↔ c = cfg.cmdFetch := by
  rw [isFetch, beq_iff_eq]

theorem isSide_iff {cfg : Config} {c : CmdWord} : isSide cfg c = true ↔
    c = cfg.cmdHeaterEn ∨ c = cfg.cmdHeaterDis ∨ c = cfg.cmdStatusRead ∨ c = cfg.cmdStatusClear := by
  simp only [isSide, Bool.or_eq_true, beq_iff_eq, or_assoc]

theorem isStatusRead_iff {cfg : Config} {c : CmdWord} : isStatusRead cfg c = true ↔ c = cfg.cmdStatusRead := by
  rw [isStatusRead, beq_iff_eq]

/-- Settles O17: one clause for each predicate. -/
theorem commandPredicatesAreExactMatches : Obligations.CommandPredicatesAreExactMatches := by
  unfold Obligations.CommandPredicatesAreExactMatches
  exact fun _ _ => ⟨isCont_iff, isFetch_iff, isSide_iff, isStatusRead_iff⟩

end Sys2Proof.Machine
end

section
/-! PROOFS. Scope: the mode controller (43_mode_controller.md): the table from which the case of a dispatch is chosen. -/

namespace Sys2Proof.Machine

/-- Settles O31, row by row of the table of R92: cases 1 and 2 are one row each, and the three rows of case 3 are the three
ways in which `dispatchCase_direct` applies. -/
theorem dispatchCaseTable : Obligations.DispatchCaseTable := by
  unfold Obligations.DispatchCaseTable
  intro cfg c
  refine ⟨?idleCont, ?idleOther, ?continuousOther, ?continuousFetch, ?continuousCont⟩
  case idleCont => exact fun hcont => dispatchCase_enter rfl hcont
  case idleOther => exact fun hcont => dispatchCase_direct (.inl ⟨rfl, hcont⟩)
  case continuousOther => exact fun hcont hfetch => dispatchCase_halt rfl hcont hfetch
  case continuousFetch => exact fun _ hfetch => dispatchCase_direct (.inr ⟨rfl, .inr hfetch⟩)
  case continuousCont => exact fun hcont => dispatchCase_direct (.inr ⟨rfl, .inl hcont⟩)

end Sys2Proof.Machine
end

section
/-! PROOFS. Scope: each phase of the sequencer run forward: what it is when the environment has not answered, has answered, or
has broken its contract; and which phase a request in progress resumes. -/

namespace Sys2Proof.Machine

/-! ## A send, by the next status (R37, R39) -/

theorem send_andThen_held {c : CmdWord} {s : State} {k : TransportStatus → State → Out} (h : s.statusIn = []) :
    (send c s).andThen s k = .next s := by
  rw [send, busWrite_held h, Answer.andThen_held]

theorem send_andThen_outside {c : CmdWord} {s : State} {k : TransportStatus → State → Out} {code : BitVec 3}
    {later : List (BitVec 3)} (h : s.statusIn = code :: later) (hc : TransportStatus.ofCode code = none) :
    (send c s).andThen s k = .refused .transportContract := by
  rw [send, busWrite_outside h hc, Answer.andThen_outside]

/-- The two codes that stand for no status (R60). -/
theorem ofCode_of_outside {code : BitVec 3} (h : code = 6#3 ∨ code = 7#3) : TransportStatus.ofCode code = none := by
  rcases h with rfl | rfl <;> rfl

/-! ## The phases of a dispatch -/

section
variable {op : Caller} {s : State} {st : TransportStatus} {later : List (BitVec 3)}

theorem dspDirect_answered (h : s.statusIn = st.code :: later) :
    dspDirect op s = dispatchDone op st ((s.setStatusIn later).emit [sendEvent s s.work.cmd st]) :=
  send_andThen_got h

theorem dspResume_answered (hw : s.lastContWritten = true) (h : s.statusIn = st.code :: later) :
    dspResume op s = dispatchDone op s.work.sent ((s.setStatusIn later).emit [sendEvent s s.lastCont st]) := by
  rw [dspResume, readLastCont_written hw, send_andThen_got h]
  rfl

theorem dspResume_unwritten (hw : s.lastContWritten = false) : dspResume op s = .fault .lastContUnwritten := by
  rw [dspResume, readLastCont_unwritten hw]

theorem dspCmd_answered_side (h : s.statusIn = st.code :: later) (hside : isSide s.cfg s.work.cmd = true) :
    dspCmd op s = dspResume op ((((s.setStatusIn later).emit [sendEvent s s.work.cmd st]).setWork
      { s.work with sent := st }).goto (.dsp op .resume)) := by
  rw [dspCmd, send_andThen_got h]
  simp [hside]

theorem dspCmd_answered_other (h : s.statusIn = st.code :: later) (hside : isSide s.cfg s.work.cmd = false) :
    dspCmd op s = dispatchDone op st (((s.setStatusIn later).emit [sendEvent s s.work.cmd st]).setMode .idle) := by
  rw [dspCmd, send_andThen_got h]
  simp [hside]

theorem dspSettle_taken (h : s.work.t0Taken = true) : dspSettle op s = dspHold op s := by
  simp [dspSettle, h]

theorem dspSettle_held (h0 : s.work.t0Taken = false) (ht : s.timeIn = []) : dspSettle op s = .next s := by
  simp [dspSettle, h0, sampleNow_held ht]

theorem dspStop_answered_success (h : s.statusIn = TransportStatus.code .success :: later) :
    dspStop op s = dspSettle op (((((s.setStatusIn later).emit [sendEvent s s.cfg.cmdStop .success]).setStretch
      (stretchOf s.cfg s.work.cmd)).setWork { s.work with t0Taken := false }).goto (.dsp op .settle)) := by
  rw [dspStop, send_andThen_got h]
  simp

theorem dspStop_answered_failed (h : s.statusIn = st.code :: later) (hst : st ≠ .success) :
    dspStop op s = dispatchDone op st ((s.setStatusIn later).emit [sendEvent s s.cfg.cmdStop st]) := by
  rw [dspStop, send_andThen_got h]
  simp [hst]

end

/-! ## The reads (R38) -/

theorem rmRead_held {s : State} (h : s.bytesIn = []) : rmRead s = .next s := by
  rw [rmRead, busRead_held h, Answer.andThen_held]

theorem rsRead_held {s : State} (h : s.bytesIn = []) : rsRead s = .next s := by
  rw [rsRead, busRead_held h, Answer.andThen_held]

theorem rmRead_outside {s : State} {rx : List Byte} {later : List (List Byte)} (h : s.bytesIn = rx :: later)
    (hn : 6 < rx.length) : rmRead s = .refused .transportContract := by
  rw [rmRead, busRead_outside h hn, Answer.andThen_outside]

theorem rsRead_outside {s : State} {rx : List Byte} {later : List (List Byte)} (h : s.bytesIn = rx :: later)
    (hn : 3 < rx.length) : rsRead s = .refused .transportContract := by
  rw [rsRead, busRead_outside h hn, Answer.andThen_outside]

/-- A read answered within its bound goes on to its last phase (R109). -/
theorem rmRead_answered {s : State} {rx : List Byte} {later : List (List Byte)} (h : s.bytesIn = rx :: later)
    (hn : rx.length ≤ 6) :
    rmRead s = rmDone ((((s.setBytesIn later).emit [.read s.addr 6 s.work.release rx]).setWork
      { s.work with rx := rx }).goto .rmDone) := by
  rw [rmRead, busRead_got h hn, Answer.andThen_got]
  rfl

/-- A register read answered within its bound goes on to its last phase (R116). -/
theorem rsRead_answered {s : State} {rx : List Byte} {later : List (List Byte)} (h : s.bytesIn = rx :: later)
    (hn : rx.length ≤ 3) :
    rsRead s = rsDone ((((s.setBytesIn later).emit [.read s.addr 3 true rx]).setWork
      { s.work with rx := rx }).goto .rsDone) := by
  rw [rsRead, busRead_got h hn, Answer.andThen_got]
  rfl

theorem rmDone_seq {s t : State} (h : rmDone s = .next t) : t.seq = .ready := by
  obtain ⟨fr, c, w, rfl⟩ := rmDone_next h
  rfl

theorem rsDone_seq {s t : State} (h : rsDone s = .next t) : t.seq = .ready := by
  obtain ⟨fr, c, w, rfl⟩ := rsDone_next h
  rfl

/-! ## What a returned dispatch goes on with, by its caller (R91, R110, R118) -/

section
variable {st : TransportStatus} {s : State}

theorem dispatchDone_dispatch : dispatchDone .dispatch st s = respond (.status st.code) s := rfl

theorem dispatchDone_readMeas_success : dispatchDone .readMeas .success s = rmReadWith true s := by
  simp [dispatchDone]

theorem dispatchDone_readMeas_failed (h : st ≠ .success) : dispatchDone .readMeas st s = rmDone (s.goto .rmDone) := by
  simp [dispatchDone, h]

theorem dispatchDone_readStatus_read (h : isStatusRead s.cfg s.work.cmd = true) :
    dispatchDone .readStatus .success s = rsRead (s.goto .rsRead) := by
  simp [dispatchDone, h]

theorem dispatchDone_readStatus_done (h : ¬ (st = .success ∧ isStatusRead s.cfg s.work.cmd = true)) :
    dispatchDone .readStatus st s = rsDone (s.goto .rsDone) := by
  rw [dispatchDone, if_neg h]

end

/-! ## The path of a measurement read (R110) -/

section
variable {s : State}

theorem rmPath_skip (h : s.stretch = .unknown ∨ s.stretch = .reserved) : rmPath s = rmDone (s.goto .rmDone) := by
  rcases h with h | h <;> simp [rmPath, h]

theorem rmPath_stretch (h : s.stretch = .stretch) : rmPath s = rmReadWith false s := by
  simp [rmPath, h]

theorem rmPath_idle (h : s.stretch = .noStretch) (hm : s.mode = .idle) : rmPath s = rmReadWith true s := by
  simp [rmPath, h, hm]

theorem rmPath_fetch (h : s.stretch = .noStretch) (hm : s.mode = .continuous) : rmPath s = rmFetch (s.goto .rmFetch) := by
  simp [rmPath, h, hm]

/-- The four paths. -/
theorem stretch_mode_cases (s : State) :
    (s.stretch = .unknown ∨ s.stretch = .reserved) ∨ s.stretch = .stretch ∨
    (s.stretch = .noStretch ∧ s.mode = .idle) ∨ (s.stretch = .noStretch ∧ s.mode = .continuous) := by
  cases s.stretch <;> cases s.mode <;> simp

end

/-! ## The start of a dispatch, by its case (R92, R94, R99) -/

/-- Case 1 up to its send. -/
theorem dispatch_enter_eq {op : Caller} {c : CmdWord} {s : State} (hm : s.mode = .idle) (hc : isCont s.cfg c = true) :
    dispatch op c s = dspDirect op { s with
      mode := .continuous, stretch := .noStretch, lastCont := c, lastContWritten := true, seq := .dsp op .direct,
      work := { s.work with cmd := c } } :=
  dispatch_enter hm hc

/-- Case 3 up to its send. -/
theorem dispatch_direct_eq {op : Caller} {c : CmdWord} {s : State}
    (h : (s.mode = .idle ∧ isCont s.cfg c = false) ∨
      (s.mode = .continuous ∧ (isCont s.cfg c = true ∨ isFetch s.cfg c = true))) :
    dispatch op c s = dspDirect op { s with
      stretch := stretchOf s.cfg c, lastCont := (if isCont s.cfg c = true then c else s.lastCont),
      lastContWritten := (isCont s.cfg c || s.lastContWritten), seq := .dsp op .direct,
      work := { s.work with cmd := c } } := by
  rw [dispatch_direct h, directCase, State.setWork_cfg]
  cases isCont s.cfg c <;> rfl

/-- Case 2 up to its stop. -/
theorem dispatch_halt_eq {op : Caller} {c : CmdWord} {s : State} (hm : s.mode = .continuous)
    (hc : isCont s.cfg c = false) (hf : isFetch s.cfg c = false) :
    dispatch op c s = dspStop op { s with seq := .dsp op .stop, work := { s.work with cmd := c } } :=
  dispatch_halt hm hc hf

/-- A dispatch overwrites `SEQ` and notes its word before anything reads them. -/
theorem dispatch_start (op : Caller) (c c' : CmdWord) (q : Seq) (s : State) :
    dispatch op c { s with seq := q, work := { s.work with cmd := c' } } = dispatch op c s := by
  rcases dispatchCase_cases s.cfg s.mode c with ⟨_, hm, hc⟩ | ⟨_, hm, hc, hf⟩ | ⟨_, hd⟩
  · rw [dispatch_enter_eq (by exact hm) (by exact hc), dispatch_enter_eq hm hc]
  · rw [dispatch_halt_eq (by exact hm) (by exact hc) (by exact hf), dispatch_halt_eq hm hc hf]
  · rw [dispatch_direct_eq (by exact hd), dispatch_direct_eq hd]

theorem dispatch_goto (op : Caller) (c : CmdWord) (s : State) (q : Seq) : dispatch op c (s.goto q) = dispatch op c s :=
  dispatch_start op c s.work.cmd q s

/-! ## The start of a read (R109, R116, R117) -/

theorem rmStart_eq (convert : Bool) (s : State) :
    rmStart convert s = rmPath { s with
      frame := sentinelFrame s.cfg, work := { s.work with convert := convert, rx := [] } } := by
  rw [rmStart, fillSentinel_six]
  rfl

theorem rsStart_eq (c : CmdWord) (s : State) :
    rsStart c s = dispatch .readStatus c { s with
      frame := regStart s.cfg s.frame, work := { s.work with cmd := c, rx := [] }, seq := .rsDispatch } := by
  rw [rsStart, fillSentinel_three]
  rfl

/-! ## An instruction in READY, its request off the port (R31) -/

section
variable {s : State} (hr : s.seq = .ready)
include hr

theorem exec_dispatch_ready {i : Instr} {c : CmdWord} (hd : dispatchedWord s.cfg i = some c) :
    exec i s = dispatch .dispatch c (s.setRequests s.requests.tail) := by
  rw [exec_of_dispatchedWord hd, hostDispatch, accept_ready hr]

theorem exec_readMeas_ready (convert : Bool) :
    exec (.readMeas convert) s = rmStart convert (s.setRequests s.requests.tail) :=
  accept_ready hr _

theorem exec_readStatus_ready (c : CmdWord) : exec (.readStatus c) s = rsStart c (s.setRequests s.requests.tail) :=
  accept_ready hr _

end

/-! ## Resuming, by the phase in which the request waits (R24) -/

section
variable {s : State} {op : Caller}

theorem resume_dspStop (h : s.seq = .dsp op .stop) : resume s = dspStop op s := by simp [resume, h]
theorem resume_dspSettle (h : s.seq = .dsp op .settle) : resume s = dspSettle op s := by simp [resume, h]
theorem resume_dspCmd (h : s.seq = .dsp op .cmd) : resume s = dspCmd op s := by simp [resume, h]
theorem resume_dspResume (h : s.seq = .dsp op .resume) : resume s = dspResume op s := by simp [resume, h]
theorem resume_dspDirect (h : s.seq = .dsp op .direct) : resume s = dspDirect op s := by simp [resume, h]
theorem resume_rmRead (h : s.seq = .rmRead) : resume s = rmRead s := by simp [resume, h]
theorem resume_rsRead (h : s.seq = .rsRead) : resume s = rsRead s := by simp [resume, h]

theorem step_busy (h : s.seq ≠ .ready) : step s = resume s := by
  rw [step, if_neg h]

end

end Sys2Proof.Machine
end

section
/-! PROOFS. Scope: a request that holds and is resumed with a further supply, against the same request with that supply at the
ports from the start: phase by phase, from the last phase back to the first. -/

namespace Sys2Proof.Machine

/-- A phase `k` that answers the held state `t` from `s` goes on, with any further supply, as resuming `t` does. -/
def GoesOn (k : State → Out) (s : State) : Prop :=
  ∀ (t : State) (codes : List (BitVec 3)) (reads : List (List Byte)) (times : List Time),
    k s = .next t → t.seq ≠ .ready → k (s.offer codes reads times) = resume (t.offer codes reads times)

@[simp] theorem State.offer_seq (s : State) (codes : List (BitVec 3)) (reads : List (List Byte)) (times : List Time) :
    (s.offer codes reads times).seq = s.seq := rfl

@[simp] theorem State.offer_work (s : State) (codes : List (BitVec 3)) (reads : List (List Byte)) (times : List Time) :
    (s.offer codes reads times).work = s.work := rfl

/-! ## The reading assembler -/

theorem rmDone_goesOn (s : State) : GoesOn rmDone s :=
  fun _ _ _ _ h hbusy => absurd (rmDone_seq h) hbusy

theorem rsDone_goesOn (s : State) : GoesOn rsDone s :=
  fun _ _ _ _ h hbusy => absurd (rsDone_seq h) hbusy

theorem rmRead_goesOn {s : State} (hq : s.seq = .rmRead) : GoesOn rmRead s := by
  intro t codes reads times h hbusy
  rcases rmRead_next h with ⟨_, rfl⟩ | ⟨rx, later, hb, hn, hk⟩
  · exact (resume_rmRead (s := t.offer codes reads times) hq).symm
  · exact absurd (rmDone_seq hk) hbusy

theorem rsRead_goesOn {s : State} (hq : s.seq = .rsRead) : GoesOn rsRead s := by
  intro t codes reads times h hbusy
  rcases rsRead_next h with ⟨_, rfl⟩ | ⟨rx, later, hb, hn, hk⟩
  · exact (resume_rsRead (s := t.offer codes reads times) hq).symm
  · exact absurd (rsDone_seq hk) hbusy

theorem rmReadWith_goesOn (release : Bool) (s : State) : GoesOn (rmReadWith release) s :=
  fun t codes reads times h hbusy =>
    rmRead_goesOn (s := (s.setWork { s.work with release := release }).goto .rmRead) rfl t codes reads times h hbusy

/-! ## The controller -/

theorem dispatchDone_goesOn (op : Caller) (st : TransportStatus) (s : State) : GoesOn (dispatchDone op st) s := by
  intro t codes reads times h hbusy
  rcases dispatchDone_next h with ⟨rfl, hk⟩ | ⟨rfl, rfl, hk⟩ | ⟨rfl, hst, hk⟩ | ⟨rfl, rfl, hread, hk⟩ | ⟨rfl, hst, hk⟩
  · exact absurd (congrArg State.seq (respond_next hk)) hbusy
  · rw [dispatchDone_readMeas_success]
    exact rmReadWith_goesOn true s t codes reads times hk hbusy
  · exact absurd (rmDone_seq hk) hbusy
  · rw [dispatchDone_readStatus_read (s := s.offer codes reads times) hread]
    exact rsRead_goesOn (s := s.goto .rsRead) rfl t codes reads times hk hbusy
  · exact absurd (rsDone_seq hk) hbusy

/-- An answer at the front of the supply stays at the front of a longer one. -/
theorem offer_statusIn_cons {s : State} {code : BitVec 3} {later : List (BitVec 3)} (h : s.statusIn = code :: later)
    (codes : List (BitVec 3)) (reads : List (List Byte)) (times : List Time) :
    (s.offer codes reads times).statusIn = code :: (later ++ codes) :=
  congrArg (· ++ codes) h

theorem dspDirect_goesOn {op : Caller} {s : State} (hq : s.seq = .dsp op .direct) : GoesOn (dspDirect op) s := by
  intro t codes reads times h hbusy
  rcases dspDirect_next h with ⟨_, rfl⟩ | ⟨st, later, hs, hk⟩
  · exact (resume_dspDirect (s := t.offer codes reads times) hq).symm
  · rw [dspDirect_answered (offer_statusIn_cons hs codes reads times)]
    have hgo := dispatchDone_goesOn op st _ t codes reads times hk hbusy
    exact hgo

theorem dspResume_goesOn {op : Caller} {s : State} (hq : s.seq = .dsp op .resume) : GoesOn (dspResume op) s := by
  intro t codes reads times h hbusy
  obtain ⟨hw, ⟨_, rfl⟩ | ⟨st, later, hs, hk⟩⟩ := dspResume_next h
  · exact (resume_dspResume (s := t.offer codes reads times) hq).symm
  · rw [dspResume_answered (s := s.offer codes reads times) hw (offer_statusIn_cons hs codes reads times)]
    have hgo := dispatchDone_goesOn op s.work.sent _ t codes reads times hk hbusy
    exact hgo

theorem dspCmd_goesOn {op : Caller} {s : State} (hq : s.seq = .dsp op .cmd) : GoesOn (dspCmd op) s := by
  intro t codes reads times h hbusy
  rcases dspCmd_next h with ⟨_, rfl⟩ | ⟨st, later, hs, ⟨hside, hk⟩ | ⟨hside, hk⟩⟩
  · exact (resume_dspCmd (s := t.offer codes reads times) hq).symm
  · rw [dspCmd_answered_side (s := s.offer codes reads times) (offer_statusIn_cons hs codes reads times) hside]
    have hgo := dspResume_goesOn (by rfl) t codes reads times hk hbusy
    exact hgo
  · rw [dspCmd_answered_other (s := s.offer codes reads times) (offer_statusIn_cons hs codes reads times) hside]
    have hgo := dispatchDone_goesOn op st _ t codes reads times hk hbusy
    exact hgo

/-- Early samples are all taken, and the scan goes on with those that follow them (R98). -/
theorem settleScan_early_append {cfg : Config} {t0 : Time} {early : List Time} (later : List Time)
    (he : ∀ e ∈ early, settled cfg t0 e = false) :
    settleScan cfg t0 (early ++ later) = (early ++ (settleScan cfg t0 later).1, (settleScan cfg t0 later).2) := by
  induction early with
  | nil => rfl
  | cons e es ih =>
    obtain ⟨hfirst, hrest⟩ := List.forall_mem_cons.mp he
    simp [settleScan, hfirst, ih hrest]

/-- Taking early samples before a hold, or all of them after it, is the same. -/
theorem dspHold_early_append {op : Caller} {s : State} {early later : List Time} (ht : s.timeIn = early ++ later)
    (he : ∀ e ∈ early, settled s.cfg s.t0 e = false) :
    dspHold op s = dspHold op ((s.emit (early.map .now)).setTimeIn later) := by
  simp only [dspHold, ht, settleScan_early_append later he, State.setTimeIn_cfg, State.setTimeIn_t0,
    State.setTimeIn_timeIn, State.emit_cfg, State.emit_t0]
  cases (settleScan s.cfg s.t0 later).2 <;> simp [State.emit, State.setTimeIn]

theorem dspHold_goesOn {op : Caller} {s : State} (hq : s.seq = .dsp op .settle) (h0 : s.work.t0Taken = true) :
    GoesOn (dspHold op) s := by
  intro t codes reads times h hbusy
  rcases dspHold_next h with ⟨he, rfl⟩ | ⟨early, late, later, ht, he, hl, hk⟩
  · rw [resume_dspSettle (op := op) (by simpa using hq), dspSettle_taken (by simpa using h0)]
    exact dspHold_early_append (s := s.offer codes reads times) rfl he
  · rw [dspHold_late (s := s.offer codes reads times) (later := later ++ times)
      ((congrArg (· ++ times) ht).trans (List.append_assoc ..)) he hl]
    have hgo := dspCmd_goesOn (by rfl) t codes reads times hk hbusy
    exact hgo

theorem dspSettle_goesOn {op : Caller} {s : State} (hq : s.seq = .dsp op .settle) : GoesOn (dspSettle op) s := by
  intro t codes reads times h hbusy
  rcases dspSettle_next h with ⟨h0, hk⟩ | ⟨_, _, rfl⟩ | ⟨h0, start, later, ht, hk⟩
  · rw [dspSettle_taken (s := s.offer codes reads times) h0]
    have hgo := dspHold_goesOn hq h0 t codes reads times hk hbusy
    exact hgo
  · exact (resume_dspSettle (s := t.offer codes reads times) hq).symm
  · rw [dspSettle_first (s := s.offer codes reads times) h0 (congrArg (· ++ times) ht)]
    have hgo := dspHold_goesOn (by exact hq) rfl t codes reads times hk hbusy
    exact hgo

theorem dspStop_goesOn {op : Caller} {s : State} (hq : s.seq = .dsp op .stop) : GoesOn (dspStop op) s := by
  intro t codes reads times h hbusy
  rcases dspStop_next h with ⟨_, rfl⟩ | ⟨st, later, hs, ⟨rfl, hk⟩ | ⟨hst, hk⟩⟩
  · exact (resume_dspStop (s := t.offer codes reads times) hq).symm
  · rw [dspStop_answered_success (s := s.offer codes reads times) (offer_statusIn_cons hs codes reads times)]
    have hgo := dspSettle_goesOn (by rfl) t codes reads times hk hbusy
    exact hgo
  · rw [dspStop_answered_failed (offer_statusIn_cons hs codes reads times) hst]
    have hgo := dispatchDone_goesOn op st _ t codes reads times hk hbusy
    exact hgo

theorem dispatch_goesOn (op : Caller) (c : CmdWord) (s : State) : GoesOn (dispatch op c) s := by
  intro t codes reads times h hbusy
  rcases dispatchCase_cases s.cfg s.mode c with ⟨_, hm, hc⟩ | ⟨_, hm, hc, hf⟩ | ⟨_, hd⟩
  · rw [dispatch_enter_eq hm hc] at h
    rw [dispatch_enter_eq (s := s.offer codes reads times) hm hc]
    have hgo := dspDirect_goesOn (by rfl) t codes reads times h hbusy
    exact hgo
  · rw [dispatch_halt_eq hm hc hf] at h
    rw [dispatch_halt_eq (s := s.offer codes reads times) hm hc hf]
    have hgo := dspStop_goesOn (by rfl) t codes reads times h hbusy
    exact hgo
  · rw [dispatch_direct_eq hd] at h
    rw [dispatch_direct_eq (s := s.offer codes reads times) hd]
    have hgo := dspDirect_goesOn (by rfl) t codes reads times h hbusy
    exact hgo

/-! ## The reads from their start, and an instruction -/

theorem rmPath_goesOn (s : State) : GoesOn rmPath s := by
  intro t codes reads times h hbusy
  rcases stretch_mode_cases s with hx | hx | ⟨hx, hm⟩ | ⟨hx, hm⟩
  · rw [rmPath_skip hx] at h
    exact absurd (rmDone_seq h) hbusy
  · rw [rmPath_stretch hx] at h
    rw [rmPath_stretch (s := s.offer codes reads times) hx]
    exact rmReadWith_goesOn false s t codes reads times h hbusy
  · rw [rmPath_idle hx hm] at h
    rw [rmPath_idle (s := s.offer codes reads times) hx hm]
    exact rmReadWith_goesOn true s t codes reads times h hbusy
  · rw [rmPath_fetch hx hm] at h
    rw [rmPath_fetch (s := s.offer codes reads times) hx hm]
    exact dispatch_goesOn .readMeas s.cfg.cmdFetch (s.goto .rmFetch) t codes reads times h hbusy

theorem rmStart_goesOn (convert : Bool) (s : State) : GoesOn (rmStart convert) s := by
  intro t codes reads times h hbusy
  rw [rmStart_eq] at h ⊢
  have hgo := rmPath_goesOn _ t codes reads times h hbusy
  exact hgo

theorem rsStart_goesOn (c : CmdWord) (s : State) : GoesOn (rsStart c) s := by
  intro t codes reads times h hbusy
  rw [rsStart_eq] at h ⊢
  have hgo := dispatch_goesOn .readStatus c _ t codes reads times h hbusy
  exact hgo

theorem exec_goesOn (i : Instr) {s : State} (hr : s.seq = .ready) : GoesOn (exec i) s := by
  intro t codes reads times h hbusy
  rcases exec_ready (i := i) hr with ⟨convert, rfl, he⟩ | ⟨c, rfl, he⟩ | ⟨bits, rfl, he⟩ | ⟨c, hd, he⟩
  · rw [exec_readMeas_ready (s := s.offer codes reads times) hr]
    exact rmStart_goesOn convert _ t codes reads times (he ▸ h) hbusy
  · rw [exec_readStatus_ready (s := s.offer codes reads times) hr]
    exact rsStart_goesOn c _ t codes reads times (he ▸ h) hbusy
  · rw [he] at h
    cases h
  · rw [exec_dispatch_ready (s := s.offer codes reads times) hr hd]
    exact dispatch_goesOn .dispatch c _ t codes reads times (he ▸ h) hbusy

/-- Settles O12: the busy port resumes the phase that holds, and each phase goes on from its hold as it would have at once. -/
theorem heldRequestGoesOnAsIfNeverHeld : Obligations.HeldRequestGoesOnAsIfNeverHeld := by
  unfold Obligations.HeldRequestGoesOnAsIfNeverHeld
  intro s t i codes reads times hr h hbusy
  rw [step_busy (s := t.offer codes reads times) hbusy]
  exact exec_goesOn i hr t codes reads times h hbusy

end Sys2Proof.Machine
end

section
/-! PROOFS. Scope: what a step keeps: ADDR, the configuration, the log so far, the presented requests; what the reading
assembler and each phase of a dispatch leave of the session registers; and from that the invariants of LAST_CONT and STRETCH. -/

namespace Sys2Proof.Machine

/-! ## What every move keeps -/

theorem Moves.addr_eq {s t : State} (h : Moves s t) : t.addr = s.addr := by
  induction h with
  | refl => rfl
  | _ => assumption

theorem Moves.cfg_eq {s t : State} (h : Moves s t) : t.cfg = s.cfg := by
  induction h with
  | refl => rfl
  | _ => assumption

theorem Moves.requests_eq {s t : State} (h : Moves s t) : t.requests = s.requests := by
  induction h with
  | refl => rfl
  | _ => assumption

theorem step_keeps_addr_cfg {s t : State} (h : step s = .next t) : t.addr = s.addr ∧ t.cfg = s.cfg := by
  rcases step_moves h with hm | hm
  · exact ⟨hm.addr_eq, hm.cfg_eq⟩
  · exact ⟨hm.addr_eq, hm.cfg_eq⟩

/-- Settles O54: no move writes ADDR or the configuration. -/
theorem noStepChangesAddrOrTheConfiguration : Obligations.NoStepChangesAddrOrTheConfiguration := by
  unfold Obligations.NoStepChangesAddrOrTheConfiguration
  intro s t h
  obtain ⟨haddr, hcfg⟩ := step_keeps_addr_cfg h
  exact ⟨haddr, hcfg, fun hfixed => by rw [AddrFixed, haddr, hcfg]; exact hfixed⟩

/-! ## The events of a step (R34, R38) -/

/-- What the transport's contract says of one event at a block with this address. -/
def Event.keepsContract (addr : BusAddr) : Event → Prop
  | .write a _ _ _ => a = addr
  | .read a n release rx => a = addr ∧ rx.length ≤ n ∧ (n = 6 ∨ (n = 3 ∧ release = true))
  | .now _ => True
  | .response _ => True

/-- The log has grown at its end, by events of which `P` holds. -/
def Appends (P : Event → Prop) (s t : State) : Prop := ∃ events, t.log = s.log ++ events ∧ ∀ e ∈ events, P e

theorem Appends.of_log_eq {P : Event → Prop} {s t : State} (h : t.log = s.log) : Appends P s t :=
  ⟨[], by rw [h, List.append_nil], by simp⟩

theorem Appends.trans {P : Event → Prop} {s t u : State} (h : Appends P s t) (h' : Appends P t u) : Appends P s u := by
  obtain ⟨es, hlog, hP⟩ := h
  obtain ⟨es', hlog', hP'⟩ := h'
  refine ⟨es ++ es', by rw [hlog', hlog, List.append_assoc], fun e he => ?_⟩
  rcases List.mem_append.mp he with he | he
  · exact hP e he
  · exact hP' e he

theorem Appends.mono {P Q : Event → Prop} {s t : State} (h : Appends P s t) (hPQ : ∀ e, P e → Q e) : Appends Q s t := by
  obtain ⟨es, hlog, hP⟩ := h
  exact ⟨es, hlog, fun e he => hPQ e (hP e he)⟩

/-- One event more. -/
theorem Appends.event {P : Event → Prop} {s t u : State} {e : Event} (h : Appends P s t) (hlog : u.log = t.log ++ [e])
    (he : P e) : Appends P s u :=
  h.trans ⟨[e], hlog, by simpa using he⟩

/-- Some samples more. -/
theorem Appends.samples {P : Event → Prop} {s t u : State} (taken : List Time) (h : Appends P s t)
    (hlog : u.log = t.log ++ taken.map .now) (hP : ∀ x, P (.now x)) : Appends P s u := by
  refine h.trans ⟨taken.map .now, hlog, fun e he => ?_⟩
  obtain ⟨x, _, rfl⟩ := List.mem_map.mp he
  exact hP x

theorem Moves.appends {s t : State} (h : Moves s t) : Appends (Event.keepsContract s.addr) s t := by
  induction h with
  | refl => exact .of_log_eq rfl
  | write c st later hm _ ih => exact ih.event rfl hm.addr_eq
  | read n release rx later hm _ hn hr ih => exact ih.event rfl ⟨hm.addr_eq, hn, hr⟩
  | sample taken later _ _ ih => exact ih.samples taken rfl fun _ => trivial
  | response w _ ih => exact ih.event rfl trivial
  | mode m _ ih => exact ih.trans (.of_log_eq rfl)
  | stretch x _ ih => exact ih.trans (.of_log_eq rfl)
  | lastCont c _ ih => exact ih.trans (.of_log_eq rfl)
  | goto q _ ih => exact ih.trans (.of_log_eq rfl)
  | t0 x _ ih => exact ih.trans (.of_log_eq rfl)
  | frame fr _ ih => exact ih.trans (.of_log_eq rfl)
  | cls c _ ih => exact ih.trans (.of_log_eq rfl)
  | work w _ ih => exact ih.trans (.of_log_eq rfl)

theorem step_appends {s t : State} (h : step s = .next t) : Appends (Event.keepsContract s.addr) s t := by
  rcases step_moves h with hm | hm
  · exact hm.appends
  · exact hm.appends

/-- Settles O55: a step is a chain of moves, and each move appends the events its port allows. -/
theorem portEventsKeepTheirContract : Obligations.PortEventsKeepTheirContract := by
  unfold Obligations.PortEventsKeepTheirContract
  intro s t h
  obtain ⟨events, hlog, hkeeps⟩ := step_appends h
  exact ⟨events, hlog, fun _ _ _ _ he => hkeeps _ he, fun _ _ _ _ he => hkeeps _ he⟩

/-! ## The request port (R31) -/

theorem exec_busy {i : Instr} {s : State} (hbusy : s.seq ≠ .ready) (hi : ∀ bits, i ≠ .reserved bits) :
    exec i s = .next s := by
  cases i with
  | reserved bits => exact absurd rfl (hi bits)
  | _ => exact accept_busy hbusy _

/-- Settles O10: no move writes the request port, and in READY one request leaves it before the first move. -/
theorem requestsAreTakenOneAtATime : Obligations.RequestsAreTakenOneAtATime := by
  unfold Obligations.RequestsAreTakenOneAtATime
  refine ⟨?keeps, fun s i hbusy hi => exec_busy hbusy hi, ?takes⟩
  case keeps =>
    intro s t hbusy h
    rw [step_busy hbusy] at h
    exact (resume_moves h).requests_eq
  case takes =>
    intro s t w later hr hreq h
    rcases step_next h with ⟨_, hnone, _⟩ | ⟨_, _, _, i, _, _, he⟩ | ⟨hbusy, _⟩
    · rw [hreq] at hnone
      cases hnone
    · rw [(exec_moves hr he).requests_eq, State.setRequests_requests, hreq, List.tail_cons]
    · exact absurd hr hbusy

/-! ## What the reading assembler leaves of the session -/

/-- The session registers, ADDR and the configuration are the same. -/
structure SameSession (s t : State) : Prop where
  mode : t.mode = s.mode
  stretch : t.stretch = s.stretch
  lastCont : t.lastCont = s.lastCont
  lastContWritten : t.lastContWritten = s.lastContWritten
  addr : t.addr = s.addr
  cfg : t.cfg = s.cfg

theorem SameSession.refl (s : State) : SameSession s s := ⟨rfl, rfl, rfl, rfl, rfl, rfl⟩

theorem SameSession.trans {s t u : State} (h : SameSession s t) (h' : SameSession t u) : SameSession s u :=
  ⟨h'.mode.trans h.mode, h'.stretch.trans h.stretch, h'.lastCont.trans h.lastCont,
    h'.lastContWritten.trans h.lastContWritten, h'.addr.trans h.addr, h'.cfg.trans h.cfg⟩

/-- A start that differs from another in no session register. -/
theorem SameSession.of_start {s s' t : State} (h : SameSession s' t) (hmode : s'.mode = s.mode := by rfl)
    (hstretch : s'.stretch = s.stretch := by rfl) (hlast : s'.lastCont = s.lastCont := by rfl)
    (hwritten : s'.lastContWritten = s.lastContWritten := by rfl) (haddr : s'.addr = s.addr := by rfl)
    (hcfg : s'.cfg = s.cfg := by rfl) : SameSession s t :=
  .trans ⟨hmode, hstretch, hlast, hwritten, haddr, hcfg⟩ h

/-- The event is no bus write. -/
def Event.noWrite : Event → Prop
  | .write _ _ _ _ => False
  | .read _ _ _ _ => True
  | .now _ => True
  | .response _ => True

/-- From `s` on, the reading assembler alone runs: it keeps the session, writes nothing to the bus and ends outside every
dispatch. -/
structure Assembles (s t : State) : Prop where
  session : SameSession s t
  outside : t.seq.inHalt = false
  appends : Appends Event.noWrite s t

/-- The assembler may start from another state with the same session and log. -/
theorem Assembles.of_start {s s' t : State} (h : Assembles s' t)
    (hlog : Appends Event.noWrite s s' := by exact .of_log_eq rfl)
    (hsession : SameSession s s' := by exact ⟨rfl, rfl, rfl, rfl, rfl, rfl⟩) : Assembles s t :=
  ⟨hsession.trans h.session, h.outside, hlog.trans h.appends⟩

theorem respond_assembles {w : ResponseWord} {s t : State} (h : respond w s = .next t) : Assembles s t := by
  rw [respond_next h]
  exact ⟨⟨rfl, rfl, rfl, rfl, rfl, rfl⟩, rfl, [.response w], rfl, by simp [Event.noWrite]⟩

theorem rmDone_assembles {s t : State} (h : rmDone s = .next t) : Assembles s t :=
  (respond_assembles h).of_start

theorem rsDone_assembles {s t : State} (h : rsDone s = .next t) : Assembles s t :=
  (respond_assembles h).of_start

theorem rmRead_assembles {s t : State} (hq : s.seq = .rmRead) (h : rmRead s = .next t) : Assembles s t := by
  rcases rmRead_next h with ⟨_, rfl⟩ | ⟨rx, later, _, _, hk⟩
  · exact ⟨.refl t, by rw [hq]; rfl, .of_log_eq rfl⟩
  · exact (rmDone_assembles hk).of_start ((Appends.of_log_eq rfl).event rfl trivial)

theorem rsRead_assembles {s t : State} (hq : s.seq = .rsRead) (h : rsRead s = .next t) : Assembles s t := by
  rcases rsRead_next h with ⟨_, rfl⟩ | ⟨rx, later, _, _, hk⟩
  · exact ⟨.refl t, by rw [hq]; rfl, .of_log_eq rfl⟩
  · exact (rsDone_assembles hk).of_start ((Appends.of_log_eq rfl).event rfl trivial)

theorem rmReadWith_assembles {release : Bool} {s t : State} (h : rmReadWith release s = .next t) : Assembles s t :=
  (rmRead_assembles rfl h).of_start

theorem dispatchDone_assembles {op : Caller} {st : TransportStatus} {s t : State} (h : dispatchDone op st s = .next t) :
    Assembles s t := by
  rcases dispatchDone_next h with ⟨_, hk⟩ | ⟨_, _, hk⟩ | ⟨_, _, hk⟩ | ⟨_, _, _, hk⟩ | ⟨_, _, hk⟩
  · exact respond_assembles hk
  · exact rmReadWith_assembles hk
  · exact (rmDone_assembles hk).of_start
  · exact (rsRead_assembles rfl hk).of_start
  · exact (rsDone_assembles hk).of_start

/-! ## What each phase of a dispatch leaves of the session (R94 to R99) -/

/-- A phase outside case 2 is outside its window. -/
theorem Seq.inSettle_of_not_inHalt {q : Seq} (h : q.inHalt = false) : q.inSettle = false := by
  cases q with
  | dsp op p => cases p <;> first | rfl | cases h
  | _ => rfl

theorem Seq.inHalt_of_inSettle {q : Seq} (h : q.inSettle = true) : q.inHalt = true := by
  cases hq : q.inHalt with
  | true => rfl
  | false => rw [Seq.inSettle_of_not_inHalt hq] at h; cases h

theorem dspDirect_session {op : Caller} {s t : State} (hq : s.seq = .dsp op .direct) (h : dspDirect op s = .next t) :
    SameSession s t ∧ t.seq.inHalt = false := by
  rcases dspDirect_next h with ⟨_, rfl⟩ | ⟨st, later, _, hk⟩
  · exact ⟨.refl t, by rw [hq]; rfl⟩
  · have ha := dispatchDone_assembles hk
    exact ⟨ha.session.of_start, ha.outside⟩

theorem dspResume_session {op : Caller} {s t : State} (hq : s.seq = .dsp op .resume) (h : dspResume op s = .next t) :
    SameSession s t ∧ t.seq.inSettle = false := by
  obtain ⟨_, ⟨_, rfl⟩ | ⟨st, later, _, hk⟩⟩ := dspResume_next h
  · exact ⟨.refl t, by rw [hq]; rfl⟩
  · have ha := dispatchDone_assembles hk
    exact ⟨ha.session.of_start, Seq.inSettle_of_not_inHalt ha.outside⟩

/-- What case 2 comes to after its successful stop. -/
inductive AfterStop (s t : State) : Prop where
  /-- The window or the send of the command holds. -/
  | waits : SameSession s t → t.work.cmd = s.work.cmd → t.seq.inSettle = true → AfterStop s t
  /-- A side command: the session stays (R96). -/
  | resumes : isSide s.cfg s.work.cmd = true → SameSession s t → t.seq.inSettle = false → AfterStop s t
  /-- Any other command: the block is Idle (R97). -/
  | leaves : isSide s.cfg s.work.cmd = false → SameSession (s.setMode .idle) t → t.seq.inHalt = false → AfterStop s t

theorem AfterStop.of_start {s s' t : State} (h : AfterStop s' t)
    (hsession : SameSession s s' := by exact ⟨rfl, rfl, rfl, rfl, rfl, rfl⟩)
    (hcmd : s'.work.cmd = s.work.cmd := by rfl) : AfterStop s t := by
  cases h with
  | waits hs hc hq => exact .waits (hsession.trans hs) (hc.trans hcmd) hq
  | resumes hside hs hq => exact .resumes (by rw [← hcmd, ← hsession.cfg]; exact hside) (hsession.trans hs) hq
  | leaves hside hs hq =>
    refine .leaves (by rw [← hcmd, ← hsession.cfg]; exact hside) (.trans ?_ hs) hq
    exact ⟨rfl, hsession.stretch, hsession.lastCont, hsession.lastContWritten, hsession.addr, hsession.cfg⟩

theorem dspCmd_afterStop {op : Caller} {s t : State} (hq : s.seq.inSettle = true) (h : dspCmd op s = .next t) :
    AfterStop s t := by
  rcases dspCmd_next h with ⟨_, rfl⟩ | ⟨st, later, _, ⟨hside, hk⟩ | ⟨hside, hk⟩⟩
  · exact .waits (.refl t) rfl hq
  · obtain ⟨hs, hout⟩ := dspResume_session rfl hk
    exact .resumes hside hs.of_start hout
  · have ha := dispatchDone_assembles hk
    exact .leaves hside (ha.session.of_start) ha.outside

theorem dspHold_afterStop {op : Caller} {s t : State} (hq : s.seq.inSettle = true) (h : dspHold op s = .next t) :
    AfterStop s t := by
  rcases dspHold_next h with ⟨_, rfl⟩ | ⟨early, late, later, _, _, _, hk⟩
  · exact .waits ⟨rfl, rfl, rfl, rfl, rfl, rfl⟩ rfl hq
  · exact (dspCmd_afterStop rfl hk).of_start

theorem dspSettle_afterStop {op : Caller} {s t : State} (hq : s.seq.inSettle = true) (h : dspSettle op s = .next t) :
    AfterStop s t := by
  rcases dspSettle_next h with ⟨_, hk⟩ | ⟨_, _, rfl⟩ | ⟨_, start, later, _, hk⟩
  · exact dspHold_afterStop hq hk
  · exact .waits (.refl t) rfl hq
  · exact (dspHold_afterStop (by exact hq) hk).of_start

/-- A stop that holds or fails leaves the session; a successful one sets the preference, and the window follows (R95). -/
theorem dspStop_session {op : Caller} {s t : State} (hq : s.seq = .dsp op .stop) (h : dspStop op s = .next t) :
    (SameSession s t ∧ t.seq.inSettle = false) ∨
    (AfterStop (s.setStretch (stretchOf s.cfg s.work.cmd)) t ∧
      ∃ events, t.log = s.log ++ sendEvent s s.cfg.cmdStop .success :: events) := by
  rcases dspStop_next h with ⟨_, rfl⟩ | ⟨st, later, _, ⟨rfl, hk⟩ | ⟨_, hk⟩⟩
  · exact .inl ⟨.refl t, by rw [hq]; rfl⟩
  · obtain ⟨events, hlog, _⟩ := (dspSettle_moves hk).appends
    exact .inr ⟨(dspSettle_afterStop rfl hk).of_start, events,
      hlog.trans (List.append_assoc ..)⟩
  · have ha := dispatchDone_assembles hk
    exact .inl ⟨ha.session.of_start, Seq.inSettle_of_not_inHalt ha.outside⟩

/-- A measurement read leaves the session but for its nested fetch (R126). -/
theorem rmStart_next {convert : Bool} {s t : State} (h : rmStart convert s = .next t) :
    Assembles s t ∨
    (s.stretch = .noStretch ∧ s.mode = .continuous ∧
      dispatch .readMeas s.cfg.cmdFetch { s with
        frame := sentinelFrame s.cfg, work := { s.work with convert := convert, rx := [] } } = .next t) := by
  rw [rmStart_eq] at h
  rcases stretch_mode_cases s with hx | hx | ⟨hx, hm⟩ | ⟨hx, hm⟩
  · rw [rmPath_skip (by exact hx)] at h
    exact .inl (rmDone_assembles h).of_start
  · rw [rmPath_stretch (by exact hx)] at h
    exact .inl (rmReadWith_assembles h).of_start
  · rw [rmPath_idle (by exact hx) (by exact hm)] at h
    exact .inl (rmReadWith_assembles h).of_start
  · rw [rmPath_fetch (by exact hx) (by exact hm), rmFetch, dispatch_goto] at h
    exact .inr ⟨hx, hm, h⟩

/-- A measurement read with `NoStretch` in Continuous is case 3 of a dispatch of the fetch word (R105, R110). -/
theorem rmStart_fetch_eq {convert : Bool} {s : State} (hx : s.stretch = .noStretch) (hm : s.mode = .continuous) :
    rmStart convert s = dspDirect .readMeas { s with
      stretch := stretchOf s.cfg s.cfg.cmdFetch,
      lastCont := (if isCont s.cfg s.cfg.cmdFetch = true then s.cfg.cmdFetch else s.lastCont),
      lastContWritten := (isCont s.cfg s.cfg.cmdFetch || s.lastContWritten), seq := .dsp .readMeas .direct,
      frame := sentinelFrame s.cfg,
      work := { s.work with cmd := s.cfg.cmdFetch, convert := convert, rx := [] } } := by
  rw [rmStart_eq, rmPath_fetch (by exact hx) (by exact hm), rmFetch, dispatch_goto]
  exact dispatch_direct_eq (.inr ⟨hm, .inr (beq_self_eq_true _)⟩)

end Sys2Proof.Machine
end

section
/-! PROOFS. Scope: the invariants of LAST_CONT (R22) and of STRETCH (R151): each kept by a dispatch, by the phases it may resume
and so by every step; that no step faults; the same of every run from reset; and how MODE changes. -/

namespace Sys2Proof.Machine

/-! ## Reset meets the invariants (R33, R143) -/

/-- Settles O14: the fields of the state after construction. -/
theorem resetLeavesIdleNoStretchReady : Obligations.ResetLeavesIdleNoStretchReady := by
  unfold Obligations.ResetLeavesIdleNoStretchReady
  exact ⟨fun _ => ⟨rfl, rfl, rfl, rfl, rfl, rfl, rfl, rfl⟩, rfl⟩

theorem resetOf_lastContSafe (cfg : Config) : LastContSafe (State.resetOf cfg) :=
  ⟨fun h => absurd h (by simp [State.resetOf]), fun h => absurd h (by simp [State.resetOf, Seq.inHalt])⟩

theorem resetOf_stretchSafe (cfg : Config) : StretchSafe (State.resetOf cfg) :=
  ⟨by simp [State.resetOf], by simp [State.resetOf], fun _ => .inl rfl⟩

/-- Settles O15: the block is Idle and READY, with NoStretch and the argument in ADDR. -/
theorem resetMeetsTheInvariants : Obligations.ResetMeetsTheInvariants := by
  unfold Obligations.ResetMeetsTheInvariants
  exact fun cfg => ⟨resetOf_lastContSafe cfg, rfl, resetOf_stretchSafe cfg⟩

/-! ## What keeps an invariant of the session, phase by phase, keeps it in every step -/

/-- Outside every dispatch the invariant depends on the session alone, and a dispatch keeps it: from its start, and from
each of its phases. -/
structure SessionInvariant (I : State → Prop) : Prop where
  outside : ∀ {s t : State}, s.seq.inHalt = false → I s → SameSession s t → t.seq.inHalt = false → I t
  dispatch : ∀ {op : Caller} {c : CmdWord} {s t : State}, s.seq.inHalt = false → I s →
    Machine.dispatch op c s = .next t → I t
  stop : ∀ {op : Caller} {s t : State}, s.seq = .dsp op .stop → I s → dspStop op s = .next t → I t
  window : ∀ {s t : State}, s.seq.inSettle = true → I s → AfterStop s t → I t
  resume : ∀ {op : Caller} {s t : State}, s.seq = .dsp op .resume → I s → dspResume op s = .next t → I t

section
variable {I : State → Prop} (hI : SessionInvariant I)
include hI

theorem SessionInvariant.resume_keeps {s t : State} (hs : I s) (h : Machine.resume s = .next t) : I t := by
  have houtside : s.seq.inHalt = false → Assembles s t → I t := fun hq ha => hI.outside hq hs ha.session ha.outside
  unfold Machine.resume at h
  split at h
  case h_1 => cases h; exact hs
  case h_2 hq => exact hI.stop hq hs h
  case h_3 hq => exact hI.window (by rw [hq]; rfl) hs (dspSettle_afterStop (by rw [hq]; rfl) h)
  case h_4 hq => exact hI.window (by rw [hq]; rfl) hs (dspCmd_afterStop (by rw [hq]; rfl) h)
  case h_5 hq => exact hI.resume hq hs h
  case h_6 hq => exact hI.outside (by rw [hq]; rfl) hs (dspDirect_session hq h).1 (dspDirect_session hq h).2
  case h_7 hq => exact hI.dispatch (by rw [hq]; rfl) hs h
  case h_8 hq => exact houtside (by rw [hq]; rfl) (rmRead_assembles hq h)
  case h_9 hq => exact houtside (by rw [hq]; rfl) (rmDone_assembles h)
  case h_10 hq => exact hI.dispatch (by rw [hq]; rfl) hs h
  case h_11 hq => exact houtside (by rw [hq]; rfl) (rsRead_assembles hq h)
  case h_12 hq => exact houtside (by rw [hq]; rfl) (rsDone_assembles h)

theorem SessionInvariant.exec_keeps {i : Instr} {s t : State} (hr : s.seq = .ready) (hs : I s)
    (h : exec i s = .next t) : I t := by
  have hq : s.seq.inHalt = false := by rw [hr]; rfl
  have hstart : ∀ {s' : State}, SameSession s s' → s'.seq.inHalt = false → I s' := hI.outside hq hs
  rcases exec_ready (i := i) hr with ⟨convert, _, he⟩ | ⟨c, _, he⟩ | ⟨bits, _, he⟩ | ⟨c, _, he⟩
  · rw [he] at h
    rcases rmStart_next h with ha | ⟨_, _, hd⟩
    · exact hstart ha.session.of_start ha.outside
    · refine hI.dispatch ?_ ?_ hd
      · exact hq
      · exact hstart ⟨rfl, rfl, rfl, rfl, rfl, rfl⟩ hq
  · rw [he, rsStart_eq] at h
    refine hI.dispatch ?_ ?_ h
    · rfl
    · exact hstart ⟨rfl, rfl, rfl, rfl, rfl, rfl⟩ rfl
  · rw [he] at h
    cases h
  · rw [he] at h
    refine hI.dispatch ?_ ?_ h
    · exact hq
    · exact hstart ⟨rfl, rfl, rfl, rfl, rfl, rfl⟩ hq

/-- Every step keeps the invariant. -/
theorem SessionInvariant.step_keeps {s t : State} (hs : I s) (h : step s = .next t) : I t := by
  rcases step_next h with ⟨_, _, rfl⟩ | ⟨hr, _, _, i, _, _, he⟩ | ⟨_, he⟩
  · exact hs
  · exact hI.exec_keeps hr hs he
  · exact hI.resume_keeps hs he

end

/-! ## LAST_CONT is written whenever the resume could read it (R22) -/

theorem lastContSafe_of_same {s t : State} (hw : s.mode = .continuous → s.lastContWritten = true)
    (hsame : SameSession s t) (hq : t.seq.inHalt = true → s.mode = .continuous) : LastContSafe t := by
  refine ⟨fun hm => ?_, fun hh => hsame.mode.trans (hq hh)⟩
  rw [hsame.lastContWritten]
  exact hw (hsame.mode.symm.trans hm)

theorem lastContSafe_afterStop {s t : State} (hm : s.mode = .continuous) (hw : s.lastContWritten = true)
    (h : AfterStop s t) : LastContSafe t := by
  cases h with
  | waits hsame _ _ => exact lastContSafe_of_same (fun _ => hw) hsame fun _ => hm
  | resumes _ hsame _ => exact lastContSafe_of_same (fun _ => hw) hsame fun _ => hm
  | leaves _ hsame hq => exact lastContSafe_of_same (s := s.setMode .idle) (fun _ => hw) hsame (by simp [hq])

theorem lastContSafe_dspStop {op : Caller} {s t : State} (hq : s.seq = .dsp op .stop) (hm : s.mode = .continuous)
    (hw : s.lastContWritten = true) (h : dspStop op s = .next t) : LastContSafe t := by
  rcases dspStop_session hq h with ⟨hsame, _⟩ | ⟨hafter, _⟩
  · exact lastContSafe_of_same (fun _ => hw) hsame fun _ => hm
  · exact lastContSafe_afterStop (s := s.setStretch (stretchOf s.cfg s.work.cmd)) hm hw hafter

theorem lastContSafe_dispatch {op : Caller} {c : CmdWord} {s t : State}
    (hw : s.mode = .continuous → s.lastContWritten = true) (h : dispatch op c s = .next t) : LastContSafe t := by
  rcases dispatchCase_cases s.cfg s.mode c with ⟨_, hm, hc⟩ | ⟨_, hm, hc, hf⟩ | ⟨_, hd⟩
  · rw [dispatch_enter_eq hm hc] at h
    obtain ⟨hsame, hout⟩ := dspDirect_session rfl h
    exact lastContSafe_of_same (fun _ => rfl) hsame (by simp [hout])
  · rw [dispatch_halt_eq hm hc hf] at h
    exact lastContSafe_dspStop (s := { s with seq := _, work := _ }) rfl hm (hw hm) h
  · rw [dispatch_direct_eq hd] at h
    obtain ⟨hsame, hout⟩ := dspDirect_session rfl h
    exact lastContSafe_of_same (fun hm => by simp [hw hm]) hsame (by simp [hout])

theorem lastContSafe_invariant : SessionInvariant LastContSafe where
  outside _ hs hsame hout := lastContSafe_of_same hs.1 hsame (by simp [hout])
  dispatch _ hs h := lastContSafe_dispatch hs.1 h
  stop hq hs h :=
    have hm := hs.2 (by rw [hq]; rfl)
    lastContSafe_dspStop hq hm (hs.1 hm) h
  window hq hs h :=
    have hm := hs.2 (Seq.inHalt_of_inSettle hq)
    lastContSafe_afterStop hm (hs.1 hm) h
  resume hq hs h :=
    have hm := hs.2 (by rw [hq]; rfl)
    lastContSafe_of_same hs.1 (dspResume_session hq h).1 fun _ => hm

/-- Settles O49: a dispatch writes LAST_CONT as it enters Continuous, and case 2 starts in Continuous and leaves it last. -/
theorem stepKeepsLastContSafe : Obligations.StepKeepsLastContSafe := by
  unfold Obligations.StepKeepsLastContSafe
  exact fun _ _ hs h => lastContSafe_invariant.step_keeps hs h

/-! ## Only an unwritten LAST_CONT faults, and only in case 2 (R22, R96) -/

theorem rmRead_ne_fault (s : State) (f : Fault) : rmRead s ≠ .fault f := by
  intro h
  obtain ⟨_, _, _, hk⟩ := Answer.andThen_fault h
  cases hk

theorem rsRead_ne_fault (s : State) (f : Fault) : rsRead s ≠ .fault f := by
  intro h
  obtain ⟨_, _, _, hk⟩ := Answer.andThen_fault h
  cases hk

theorem dispatchDone_ne_fault (op : Caller) (st : TransportStatus) (s : State) (f : Fault) :
    dispatchDone op st s ≠ .fault f := by
  intro h
  cases op with
  | dispatch => cases h
  | readMeas =>
    simp only [dispatchDone] at h
    split at h
    · exact rmRead_ne_fault _ f h
    · cases h
  | readStatus =>
    simp only [dispatchDone] at h
    split at h
    · exact rsRead_ne_fault _ f h
    · cases h

/-- A send that is answered and then faults, faults in what follows it. -/
theorem send_andThen_fault {c : CmdWord} {s : State} {k : TransportStatus → State → Out} {f : Fault}
    (h : (send c s).andThen s k = .fault f) :
    ∃ st later, k st ((s.setStatusIn later).emit [sendEvent s c st]) = .fault f := by
  obtain ⟨st, s', ha, hk⟩ := Answer.andThen_fault h
  obtain ⟨later, _, rfl⟩ := busWrite_answer ha
  exact ⟨st, later, hk⟩

theorem dspDirect_ne_fault (op : Caller) (s : State) (f : Fault) : dspDirect op s ≠ .fault f := by
  intro h
  obtain ⟨st, later, hk⟩ := send_andThen_fault h
  exact dispatchDone_ne_fault _ _ _ f hk

theorem dspResume_fault {op : Caller} {s : State} {f : Fault} (h : dspResume op s = .fault f) :
    s.lastContWritten = false := by
  refine Bool.eq_false_iff.mpr fun hw => ?_
  rw [dspResume, readLastCont_written hw] at h
  obtain ⟨st, later, hk⟩ := send_andThen_fault h
  exact dispatchDone_ne_fault _ _ _ f hk

theorem dspCmd_fault {op : Caller} {s : State} {f : Fault} (h : dspCmd op s = .fault f) : s.lastContWritten = false := by
  obtain ⟨st, later, hk⟩ := send_andThen_fault h
  split at hk
  · exact (dspResume_fault hk :)
  · exact absurd hk (dispatchDone_ne_fault _ _ _ f)

theorem dspHold_fault {op : Caller} {s : State} {f : Fault} (h : dspHold op s = .fault f) : s.lastContWritten = false := by
  rcases settleScan_cases s.cfg s.t0 s.timeIn with ⟨he, _⟩ | ⟨early, late, later, hl, he, ht, _⟩
  · rw [dspHold_early he] at h
    cases h
  · rw [dspHold_late hl he ht] at h
    exact (dspCmd_fault h :)

theorem dspSettle_fault {op : Caller} {s : State} {f : Fault} (h : dspSettle op s = .fault f) :
    s.lastContWritten = false := by
  unfold dspSettle at h
  split at h
  · exact dspHold_fault h
  · obtain ⟨t, s', ha, hk⟩ := Answer.andThen_fault h
    obtain ⟨later, _, rfl⟩ := sampleNow_answer ha
    exact (dspHold_fault hk :)

theorem dspStop_fault {op : Caller} {s : State} {f : Fault} (h : dspStop op s = .fault f) : s.lastContWritten = false := by
  obtain ⟨st, later, hk⟩ := send_andThen_fault h
  split at hk
  · exact (dspSettle_fault hk :)
  · exact absurd hk (dispatchDone_ne_fault _ _ _ f)

theorem dispatch_fault {op : Caller} {c : CmdWord} {s : State} {f : Fault} (h : dispatch op c s = .fault f) :
    s.mode = .continuous ∧ s.lastContWritten = false := by
  rcases dispatchCase_cases s.cfg s.mode c with ⟨_, hm, hc⟩ | ⟨_, hm, hc, hf⟩ | ⟨_, hd⟩
  · rw [dispatch_enter_eq hm hc] at h
    exact absurd h (dspDirect_ne_fault _ _ f)
  · rw [dispatch_halt_eq hm hc hf] at h
    exact ⟨hm, (dspStop_fault h :)⟩
  · rw [dispatch_direct_eq hd] at h
    exact absurd h (dspDirect_ne_fault _ _ f)

theorem rmStart_fault {convert : Bool} {s : State} {f : Fault} (h : rmStart convert s = .fault f) :
    s.mode = .continuous ∧ s.lastContWritten = false := by
  rw [rmStart_eq] at h
  rcases stretch_mode_cases s with hx | hx | ⟨hx, hm⟩ | ⟨hx, hm⟩
  · rw [rmPath_skip (by exact hx)] at h
    cases h
  · rw [rmPath_stretch (by exact hx)] at h
    exact absurd h (rmRead_ne_fault _ f)
  · rw [rmPath_idle (by exact hx) (by exact hm)] at h
    exact absurd h (rmRead_ne_fault _ f)
  · rw [rmPath_fetch (by exact hx) (by exact hm)] at h
    exact (dispatch_fault h :)

theorem exec_fault {i : Instr} {s : State} {f : Fault} (hr : s.seq = .ready) (h : exec i s = .fault f) :
    s.mode = .continuous ∧ s.lastContWritten = false := by
  rcases exec_ready (i := i) hr with ⟨convert, _, he⟩ | ⟨c, _, he⟩ | ⟨bits, _, he⟩ | ⟨c, _, he⟩
  · rw [he] at h
    exact (rmStart_fault h :)
  · rw [he, rsStart_eq] at h
    exact (dispatch_fault h :)
  · rw [he] at h
    cases h
  · rw [he] at h
    exact (dispatch_fault h :)

/-- A resumed request faults in a phase of case 2, or in a dispatch that starts anew. -/
theorem resume_fault {s : State} {f : Fault} (h : resume s = .fault f) :
    (s.seq.inHalt = true ∨ s.mode = .continuous) ∧ s.lastContWritten = false := by
  unfold resume at h
  split at h
  case h_1 => cases h
  case h_2 hq => exact ⟨.inl (by rw [hq]; rfl), dspStop_fault h⟩
  case h_3 hq => exact ⟨.inl (by rw [hq]; rfl), dspSettle_fault h⟩
  case h_4 hq => exact ⟨.inl (by rw [hq]; rfl), dspCmd_fault h⟩
  case h_5 hq => exact ⟨.inl (by rw [hq]; rfl), dspResume_fault h⟩
  case h_6 => exact absurd h (dspDirect_ne_fault _ _ f)
  case h_7 => exact ⟨.inr (dispatch_fault h).1, (dispatch_fault h).2⟩
  case h_8 => exact absurd h (rmRead_ne_fault _ f)
  case h_9 => cases h
  case h_10 => exact ⟨.inr (dispatch_fault h).1, (dispatch_fault h).2⟩
  case h_11 => exact absurd h (rsRead_ne_fault _ f)
  case h_12 => cases h

/-- A step faults only in Continuous or in case 2, with LAST_CONT unwritten. -/
theorem step_fault {s : State} {f : Fault} (h : step s = .fault f) :
    (s.seq.inHalt = true ∨ s.mode = .continuous) ∧ s.lastContWritten = false := by
  unfold step at h
  split at h
  case isTrue hr =>
    split at h
    · cases h
    · split at h
      · exact ⟨.inr (exec_fault hr h).1, (exec_fault hr h).2⟩
      · cases h
  case isFalse => exact resume_fault h

theorem lastContSafe_step_ne_fault {s : State} (hs : LastContSafe s) (f : Fault) : step s ≠ .fault f := by
  intro h
  obtain ⟨hwhere, hunwritten⟩ := step_fault h
  have hm : s.mode = .continuous := hwhere.elim hs.2 id
  rw [hs.1 hm] at hunwritten
  cases hunwritten

/-- Settles O50: only the resume of case 2 faults, with LAST_CONT unwritten, which a safe state shuts out. -/
theorem safeStatesNeverFault : Obligations.SafeStatesNeverFault := by
  unfold Obligations.SafeStatesNeverFault
  exact fun _ f hs => lastContSafe_step_ne_fault hs f

/-! ## STRETCH in Continuous, under WF2 (R151) -/

theorem stretchOf_ne_unknown (cfg : Config) (c : CmdWord) : stretchOf cfg c ≠ .unknown := by
  unfold stretchOf
  split <;> simp

theorem stretchOf_ne_reserved (cfg : Config) (c : CmdWord) : stretchOf cfg c ≠ .reserved := by
  unfold stretchOf
  split <;> simp

/-- No word of the vocabulary enables stretching (R10). -/
theorem stretchOf_of_wf2 {cfg : Config} {c : CmdWord} (hw : cfg.WF2) (hc : c ∈ cfg.words) :
    stretchOf cfg c = .noStretch :=
  stretchOf_of_hi_ne (hw c hc)

theorem mem_words_of_isCont {cfg : Config} {c : CmdWord} (h : isCont cfg c = true) : c ∈ cfg.words := by
  simp only [isCont, Bool.or_eq_true, beq_iff_eq] at h
  simp only [Config.words, List.mem_cons]
  tauto

theorem mem_words_of_isFetch {cfg : Config} {c : CmdWord} (h : isFetch cfg c = true) : c ∈ cfg.words := by
  rw [isFetch_iff.mp h]
  simp [Config.words]

theorem mem_words_of_isSide {cfg : Config} {c : CmdWord} (h : isSide cfg c = true) : c ∈ cfg.words := by
  rcases isSide_iff.mp h with rfl | rfl | rfl | rfl <;> simp [Config.words]

/-- The invariant with the premise it is kept under. -/
def StretchSafeWF2 (s : State) : Prop := s.cfg.WF2 ∧ StretchSafe s

/-- Where no exception applies, the session alone says that STRETCH is safe. -/
theorem stretchSafe_of_same {s t : State} (hwf : s.cfg.WF2) (hu : s.stretch ≠ .unknown) (hr : s.stretch ≠ .reserved)
    (hx : s.mode = .continuous → s.stretch = .noStretch) (hsame : SameSession s t) : StretchSafeWF2 t := by
  refine ⟨by rw [hsame.cfg]; exact hwf, by rw [hsame.stretch]; exact hu, by rw [hsame.stretch]; exact hr, fun hm => ?_⟩
  rw [hsame.stretch]
  exact .inl (hx (hsame.mode.symm.trans hm))

theorem noStretch_of_not_inSettle {s : State} (hs : StretchSafe s) (hq : s.seq.inSettle = false)
    (hm : s.mode = .continuous) : s.stretch = .noStretch := by
  rcases hs.2.2 hm with hx | ⟨hin, _⟩
  · exact hx
  · rw [hq] at hin
    cases hin

/-- After the stop the preference is the command's: with a side command it is NoStretch, with any other the block is in the
window or Idle. -/
theorem stretchSafe_afterStop {s t : State} (hwf : s.cfg.WF2) (hu : s.stretch ≠ .unknown) (hr : s.stretch ≠ .reserved)
    (hx : s.mode = .continuous → isSide s.cfg s.work.cmd = true → s.stretch = .noStretch) (h : AfterStop s t) :
    StretchSafeWF2 t := by
  cases h with
  | waits hsame hcmd hq =>
    refine ⟨by rw [hsame.cfg]; exact hwf, by rw [hsame.stretch]; exact hu, by rw [hsame.stretch]; exact hr, fun hm => ?_⟩
    rw [hsame.stretch, hsame.cfg, hcmd]
    cases hside : isSide s.cfg s.work.cmd with
    | true => exact .inl (hx (hsame.mode.symm.trans hm) hside)
    | false => exact .inr ⟨hq, rfl⟩
  | resumes hside hsame _ => exact stretchSafe_of_same hwf hu hr (fun hm => hx hm hside) hsame
  | leaves _ hsame _ => exact stretchSafe_of_same (s := s.setMode .idle) hwf hu hr (fun hm => by simp at hm) hsame

theorem stretchSafe_dspStop {op : Caller} {s t : State} (hq : s.seq = .dsp op .stop) (hs : StretchSafeWF2 s)
    (h : dspStop op s = .next t) : StretchSafeWF2 t := by
  obtain ⟨hwf, hs⟩ := hs
  rcases dspStop_session hq h with ⟨hsame, _⟩ | ⟨hafter, _⟩
  · exact stretchSafe_of_same hwf hs.1 hs.2.1 (noStretch_of_not_inSettle hs (by rw [hq]; rfl)) hsame
  · exact stretchSafe_afterStop (s := s.setStretch (stretchOf s.cfg s.work.cmd)) hwf (stretchOf_ne_unknown _ _)
      (stretchOf_ne_reserved _ _) (fun _ hside => stretchOf_of_wf2 hwf (mem_words_of_isSide hside)) hafter

theorem stretchSafe_dispatch {op : Caller} {c : CmdWord} {s t : State} (hq : s.seq.inHalt = false)
    (hs : StretchSafeWF2 s) (h : dispatch op c s = .next t) : StretchSafeWF2 t := by
  obtain ⟨hwf, hs⟩ := hs
  rcases dispatchCase_cases s.cfg s.mode c with ⟨_, hm, hc⟩ | ⟨_, hm, hc, hf⟩ | ⟨_, hd⟩
  · rw [dispatch_enter_eq hm hc] at h
    exact stretchSafe_of_same (by exact hwf) (by simp) (by simp) (fun _ => rfl) (dspDirect_session rfl h).1
  · rw [dispatch_halt_eq hm hc hf] at h
    have hx := noStretch_of_not_inSettle hs (Seq.inSettle_of_not_inHalt hq)
    refine stretchSafe_dspStop rfl ?_ h
    exact ⟨hwf, hs.1, hs.2.1, fun hm => .inl (hx hm)⟩
  · rw [dispatch_direct_eq hd] at h
    refine stretchSafe_of_same (by exact hwf) (stretchOf_ne_unknown _ _) (stretchOf_ne_reserved _ _) (fun hm => ?_)
      (dspDirect_session rfl h).1
    rcases hd with ⟨hidle, _⟩ | ⟨_, hc | hf⟩
    · exact absurd (hidle.symm.trans hm) (by simp)
    · exact stretchOf_of_wf2 hwf (mem_words_of_isCont hc)
    · exact stretchOf_of_wf2 hwf (mem_words_of_isFetch hf)

theorem stretchSafe_invariant : SessionInvariant StretchSafeWF2 where
  outside hq hs hsame _ := stretchSafe_of_same hs.1 hs.2.1 hs.2.2.1
    (noStretch_of_not_inSettle hs.2 (Seq.inSettle_of_not_inHalt hq)) hsame
  dispatch hq hs h := stretchSafe_dispatch hq hs h
  stop hq hs h := stretchSafe_dspStop hq hs h
  window _ hs h := stretchSafe_afterStop hs.1 hs.2.1 hs.2.2.1 (fun hm hside =>
    (hs.2.2.2 hm).elim id fun hexception => by rw [hexception.2] at hside; cases hside) h
  resume hq hs h := stretchSafe_of_same hs.1 hs.2.1 hs.2.2.1
    (noStretch_of_not_inSettle hs.2 (by rw [hq]; rfl)) (dspResume_session hq h).1

/-- Settles O52: under WF2 no word of the vocabulary enables stretching, so that only a command that leaves Continuous can,
and it does so between its stop and its send. -/
theorem stepKeepsStretchSafe : Obligations.StepKeepsStretchSafe := by
  unfold Obligations.StepKeepsStretchSafe
  exact fun _ _ hwf hs h => (stretchSafe_invariant.step_keeps ⟨hwf, hs⟩ h).2

/-! ## Runs from reset -/

/-- What every step keeps, every run keeps. -/
theorem run_keeps {I : State → Prop} (hI : ∀ {s t : State}, I s → step s = .next t → I t) {k : Nat} {s t : State}
    (hs : I s) (h : Host.Core.run Sys2Proof.core k s = .next t) : I t := by
  induction k generalizing s with
  | zero => cases h; exact hs
  | succ k ih =>
    cases hstep : step s with
    | next s' => exact ih (hI hs hstep) (by rw [← run_of_next hstep]; exact h)
    | fault f => rw [run_of_fault hstep] at h; cases h
    | refused r => rw [run_of_refused hstep] at h; cases h

/-- Where every step keeps an invariant and no step that meets it faults, no run faults. -/
theorem run_ne_fault {I : State → Prop} (hI : ∀ {s t : State}, I s → step s = .next t → I t)
    (hsafe : ∀ {s : State} (f : Fault), I s → step s ≠ .fault f) {k : Nat} {s : State} (hs : I s) (f : Fault) :
    Host.Core.run Sys2Proof.core k s ≠ .fault f := by
  induction k generalizing s with
  | zero => intro h; cases h
  | succ k ih =>
    intro h
    cases hstep : step s with
    | next s' => exact ih (hI hs hstep) (by rw [← run_of_next hstep]; exact h)
    | fault f' => exact hsafe f' hs hstep
    | refused r => rw [run_of_refused hstep] at h; cases h

/-- Settles O51: LAST_CONT is safe after reset, whatever is at the ports, and every step keeps it so. -/
theorem noRunFromResetFaults : Obligations.NoRunFromResetFaults := by
  unfold Obligations.NoRunFromResetFaults
  intro cfg words codes reads times k f
  refine run_ne_fault lastContSafe_invariant.step_keeps (fun f hs => lastContSafe_step_ne_fault hs f) ?reset f
  exact resetOf_lastContSafe cfg

/-- Settles O53: in READY the invariant's exception does not apply. -/
theorem continuousIsNeverStretchingBetweenRequests : Obligations.ContinuousIsNeverStretchingBetweenRequests := by
  unfold Obligations.ContinuousIsNeverStretchingBetweenRequests
  intro cfg words codes reads times k t hwf h hr
  have hreset : StretchSafeWF2 (((State.resetOf cfg).present words).offer codes reads times) :=
    ⟨hwf, resetOf_stretchSafe cfg⟩
  obtain ⟨_, ht⟩ := run_keeps stretchSafe_invariant.step_keeps hreset h
  exact ⟨noStretch_of_not_inSettle ht (by rw [hr]; rfl), ht.1, ht.2.1⟩

/-! ## MODE, and the session of a measurement read -/

/-- Settles O44: READ_MEAS leaves the session but for case 3 of its nested fetch (R105, R126). -/
theorem measurementKeepsTheSession : Obligations.MeasurementKeepsTheSession := by
  unfold Obligations.MeasurementKeepsTheSession
  intro s t convert hr h
  rw [exec_readMeas_ready hr] at h
  by_cases hx : s.stretch = .noStretch ∧ s.mode = .continuous
  · rw [rmStart_fetch_eq (by exact hx.1) (by exact hx.2)] at h
    obtain ⟨hsame, _⟩ := dspDirect_session rfl h
    refine ⟨hsame.mode, hsame.addr, fun hn => absurd hx hn, fun _ => ⟨hsame.stretch, fun hc => ?_⟩⟩
    exact ⟨hsame.lastCont.trans (by simp [hc]), hsame.lastContWritten.trans (by simp [hc])⟩
  · rcases rmStart_next h with ha | ⟨hx', hm', _⟩
    · have hsame : SameSession s t := ha.session.of_start
      exact ⟨hsame.mode, hsame.addr, fun _ => ⟨hsame.stretch, hsame.lastCont, hsame.lastContWritten⟩, fun h => absurd h hx⟩
    · exact absurd ⟨hx', hm'⟩ hx

/-- How a dispatch changes MODE (R93, R97). -/
theorem dispatch_mode {op : Caller} {c : CmdWord} {s t : State} (h : dispatch op c s = .next t) :
    t.mode = s.mode ∨
    (s.mode = .idle ∧ isCont s.cfg c = true) ∨
    (s.mode = .continuous ∧ isCont s.cfg c = false ∧ isFetch s.cfg c = false ∧ isSide s.cfg c = false ∧
      ∃ events, t.log = s.log ++ sendEvent s s.cfg.cmdStop .success :: events) := by
  rcases dispatchCase_cases s.cfg s.mode c with ⟨_, hm, hc⟩ | ⟨_, hm, hc, hf⟩ | ⟨_, hd⟩
  · exact .inr (.inl ⟨hm, hc⟩)
  · rw [dispatch_halt_eq hm hc hf] at h
    rcases dspStop_session rfl h with ⟨hsame, _⟩ | ⟨hafter, hlog⟩
    · exact .inl hsame.mode
    · cases hafter with
      | waits hsame _ _ => exact .inl hsame.mode
      | resumes _ hsame _ => exact .inl hsame.mode
      | leaves hside _ _ => exact .inr (.inr ⟨hm, hc, hf, hside, hlog⟩)
  · rw [dispatch_direct_eq hd] at h
    exact .inl (dspDirect_session rfl h).1.mode

/-- The word a dispatching instruction carries is the host's word. -/
theorem hostWord_of_dispatchedWord {cfg : Config} {i : Instr} {c : CmdWord} (h : dispatchedWord cfg i = some c) :
    hostWord cfg i = some c := by
  cases i with
  | readMeas _ => cases h
  | readStatus _ => cases h
  | reserved _ => cases h
  | _ => exact h

/-- A dispatch that changes MODE does so by one row of the transition table (60_exceptions.md section 5). -/
def ModeRow (s t : State) (i : Instr) : Prop :=
  (s.mode = .idle → t.mode = .continuous → ∃ c, hostWord s.cfg i = some c ∧ isCont s.cfg c = true) ∧
  (s.mode = .continuous → t.mode = .idle → ∃ c, hostWord s.cfg i = some c ∧ isCont s.cfg c = false ∧
    isFetch s.cfg c = false ∧ isSide s.cfg c = false ∧
    ∃ events, t.log = s.log ++ sendEvent s s.cfg.cmdStop .success :: events)

theorem modeRow_of_same {s t : State} (i : Instr) (h : t.mode = s.mode) : ModeRow s t i :=
  ⟨fun hi hc => absurd (hi.symm.trans (h.symm.trans hc)) (by simp),
    fun hc hi => absurd (hi.symm.trans (h.trans hc)) (by simp)⟩

theorem modeRow_of_dispatch {op : Caller} {c : CmdWord} {s s' t : State} {i : Instr} (hw : hostWord s.cfg i = some c)
    (h : dispatch op c s' = .next t) (hsame : SameSession s s') (hlog : s'.log = s.log) : ModeRow s t i := by
  rcases dispatch_mode h with hmode | ⟨hm, hc⟩ | ⟨hm, hc, hf, hside, events, hl⟩
  · exact modeRow_of_same i (hmode.trans hsame.mode)
  · rw [hsame.mode] at hm
    rw [hsame.cfg] at hc
    exact ⟨fun _ _ => ⟨c, hw, hc⟩, fun hm' => absurd (hm'.symm.trans hm) (by simp)⟩
  · rw [hsame.mode] at hm
    rw [hsame.cfg] at hc hf hside
    refine ⟨fun hm' => absurd (hm'.symm.trans hm) (by simp), fun _ _ => ⟨c, hw, hc, hf, hside, events, ?_⟩⟩
    rw [hl, hlog, sendEvent, sendEvent, hsame.addr, hsame.cfg]

/-- Settles O57: the dispatch of the host's word alone changes MODE, by the cases 1 and 2. -/
theorem modeChangesOnlyByDispatch : Obligations.ModeChangesOnlyByDispatch := by
  unfold Obligations.ModeChangesOnlyByDispatch
  intro s t i hr h
  show ModeRow s t i
  rcases exec_ready (i := i) hr with ⟨convert, rfl, _⟩ | ⟨c, rfl, he⟩ | ⟨bits, _, he⟩ | ⟨c, hd, he⟩
  · exact modeRow_of_same _ (measurementKeepsTheSession s t convert hr h).1
  · rw [he, rsStart_eq] at h
    exact modeRow_of_dispatch rfl h ⟨rfl, rfl, rfl, rfl, rfl, rfl⟩ rfl
  · rw [he] at h
    cases h
  · rw [he] at h
    exact modeRow_of_dispatch (hostWord_of_dispatchedWord hd) h ⟨rfl, rfl, rfl, rfl, rfl, rfl⟩ rfl

end Sys2Proof.Machine
end

section
/-! PROOFS. Scope: the course of a dispatch: the moves it makes before it returns to its caller, the words it may send, what of
the state it does not read; so what it sends and leaves unchanged, that READ_STATUS is DISPATCH and then its read, and that what
FR, CLASS and T0 hold between requests reaches nothing else. -/

namespace Sys2Proof.Machine

/-! ## The moves of a dispatch -/

/-- From the start of a case to the return of the dispatch (R94 to R99): fewer moves than `Moves` allows, none of them on the
read side, and sends of three words only. -/
inductive Course (s : State) : State → Prop where
  | start : Course s s
  | send {t : State} (c : CmdWord) (st : TransportStatus) (later : List (BitVec 3)) :
      Course s t → (c = t.work.cmd ∨ c = t.cfg.cmdStop ∨ c = t.lastCont) →
      Course s ((t.setStatusIn later).emit [sendEvent t c st])
  | sample {t : State} (taken later : List Time) : Course s t → Course s ((t.emit (taken.map .now)).setTimeIn later)
  | mode {t : State} (m : Mode) : Course s t → Course s (t.setMode m)
  | stretch {t : State} (x : Stretch) : Course s t → Course s (t.setStretch x)
  | goto {t : State} (q : Seq) : Course s t → Course s (t.goto q)
  | t0 {t : State} (x : Time) : Course s t → Course s (t.setT0 x)
  | sent {t : State} (st : TransportStatus) : Course s t → Course s (t.setWork { t.work with sent := st })
  | taken {t : State} (b : Bool) : Course s t → Course s (t.setWork { t.work with t0Taken := b })

theorem Course.trans {s t u : State} (h : Course s t) (h' : Course t u) : Course s u := by
  induction h' with
  | start => exact h
  | send c st later _ hc ih => exact .send c st later ih hc
  | sample taken later _ ih => exact .sample taken later ih
  | mode m _ ih => exact .mode m ih
  | stretch x _ ih => exact .stretch x ih
  | goto q _ ih => exact .goto q ih
  | t0 x _ ih => exact .t0 x ih
  | sent st _ ih => exact .sent st ih
  | taken b _ ih => exact .taken b ih

/-- What no move of a dispatch writes. -/
structure SameReadSide (s t : State) : Prop where
  frame : t.frame = s.frame
  cls : t.cls = s.cls
  addr : t.addr = s.addr
  cfg : t.cfg = s.cfg
  bytesIn : t.bytesIn = s.bytesIn

theorem SameReadSide.trans {s t u : State} (h : SameReadSide s t) (h' : SameReadSide t u) : SameReadSide s u :=
  ⟨h'.frame.trans h.frame, h'.cls.trans h.cls, h'.addr.trans h.addr, h'.cfg.trans h.cfg, h'.bytesIn.trans h.bytesIn⟩

theorem Course.sameReadSide {s t : State} (h : Course s t) : SameReadSide s t := by
  induction h with
  | start => exact ⟨rfl, rfl, rfl, rfl, rfl⟩
  | _ => rename_i ih; exact ⟨ih.frame, ih.cls, ih.addr, ih.cfg, ih.bytesIn⟩

theorem Course.cmd_eq {s t : State} (h : Course s t) : t.work.cmd = s.work.cmd := by
  induction h with
  | start => rfl
  | _ => assumption

theorem Course.rx_eq {s t : State} (h : Course s t) : t.work.rx = s.work.rx := by
  induction h with
  | start => rfl
  | _ => assumption

theorem Course.lastCont_eq {s t : State} (h : Course s t) : t.lastCont = s.lastCont := by
  induction h with
  | start => rfl
  | _ => assumption

/-- The event is no bus write, or the write of a word of which `W` holds, its high byte first (R43, R90). -/
def Event.sends (W : CmdWord → Prop) : Event → Prop
  | .write _ b0 b1 _ => ∃ c, b0 = hi c ∧ b1 = lo c ∧ W c
  | .read _ _ _ _ => True
  | .now _ => True
  | .response _ => True

theorem Event.sends_of_noWrite {W : CmdWord → Prop} {e : Event} (h : e.noWrite) : e.sends W := by
  cases e with
  | write a b0 b1 st => cases h
  | _ => trivial

theorem Event.sends_mono {W W' : CmdWord → Prop} (hW : ∀ c, W c → W' c) {e : Event} (h : e.sends W) : e.sends W' := by
  cases e with
  | write a b0 b1 st =>
    obtain ⟨c, h0, h1, hc⟩ := h
    exact ⟨c, h0, h1, hW c hc⟩
  | _ => trivial

theorem Course.sends {s t : State} (h : Course s t) :
    Appends (Event.sends fun c => c = s.work.cmd ∨ c = s.cfg.cmdStop ∨ c = s.lastCont) s t := by
  induction h with
  | start => exact .of_log_eq rfl
  | send c st later hcourse hc ih =>
    rw [hcourse.cmd_eq, hcourse.sameReadSide.cfg, hcourse.lastCont_eq] at hc
    exact ih.event rfl ⟨c, rfl, rfl, hc⟩
  | sample taken later _ ih => exact ih.samples taken rfl fun _ => trivial
  | mode m _ ih => exact ih.trans (.of_log_eq rfl)
  | stretch x _ ih => exact ih.trans (.of_log_eq rfl)
  | goto q _ ih => exact ih.trans (.of_log_eq rfl)
  | t0 x _ ih => exact ih.trans (.of_log_eq rfl)
  | sent st _ ih => exact ih.trans (.of_log_eq rfl)
  | taken b _ ih => exact ih.trans (.of_log_eq rfl)

/-! ## Each phase runs its course, whoever calls it and whatever the read side holds -/

/-- The state with what a dispatch does not read set to other values. -/
def State.beside (s : State) (fr : Frame) (cl : Classification) (x : Time) (q : Seq) (rx : List Byte) : State :=
  { s with frame := fr, cls := cl, t0 := x, seq := q, work := { s.work with rx := rx } }

/-- What a dispatch that answers `t` comes to, in a case that starts in `s`: it holds in a phase, or it returns to its caller.
`run` is the same dispatch for another caller, with other values beside it and `x` in `T0`; it returns the same, and the same
`T0` if `x` is that of `s`. -/
inductive Comes (run : Caller → Frame → Classification → Seq → List Byte → Out) (x : Time) (op : Caller) (s t : State) :
    Prop where
  | holds (p : DspPhase) : Course s t → t.seq = .dsp op p → Comes run x op s t
  | returns (st : TransportStatus) (u : State) : Course s u → dispatchDone op st u = .next t →
      (∀ op' fr cl q rx, ∃ x' q', run op' fr cl q rx = dispatchDone op' st (u.beside fr cl x' q' rx) ∧
        (x = s.t0 → x' = u.t0)) → Comes run x op s t

/-- The phase `k` at `s`, for another caller and with other values beside it; `T0` is then `x`. -/
def runBeside (k : Caller → State → Out) (s : State) (x : Time) :
    Caller → Frame → Classification → Seq → List Byte → Out :=
  fun op fr cl q rx => k op (s.beside fr cl x q rx)

/-- What comes of a phase comes of what runs up to it. -/
theorem Comes.before {run : Caller → Frame → Classification → Seq → List Byte → Out} {k : Caller → State → Out}
    {op : Caller} {s s' t : State} {x x' : Time} (h : Comes (runBeside k s' x') x' op s' t) (hcourse : Course s s')
    (hx : x = s.t0 → x' = s'.t0)
    (hrun : ∀ op' fr cl q rx, ∃ q', run op' fr cl q rx = k op' (s'.beside fr cl x' q' rx)) : Comes run x op s t := by
  cases h with
  | holds p hc hq => exact .holds p (hcourse.trans hc) hq
  | returns st u hc hdone hk =>
    refine .returns st u (hcourse.trans hc) hdone fun op' fr cl q rx => ?_
    obtain ⟨q', hr⟩ := hrun op' fr cl q rx
    obtain ⟨x'', q'', hk, hx''⟩ := hk op' fr cl q' rx
    exact ⟨x'', q'', hr.trans hk, fun h => hx'' (hx h)⟩

theorem dspDirect_comes {op : Caller} {s t : State} (x : Time) (hq : s.seq = .dsp op .direct)
    (h : dspDirect op s = .next t) : Comes (runBeside dspDirect s x) x op s t := by
  rcases dspDirect_next h with ⟨_, rfl⟩ | ⟨st, later, hs, hk⟩
  · exact .holds _ .start hq
  · exact .returns st _ (.send _ st later .start (.inl rfl)) hk fun op' fr cl q rx =>
      ⟨x, q, dspDirect_answered (s := s.beside fr cl x q rx) hs, id⟩

theorem dspResume_comes {op : Caller} {s t : State} (x : Time) (hq : s.seq = .dsp op .resume)
    (h : dspResume op s = .next t) : Comes (runBeside dspResume s x) x op s t := by
  obtain ⟨hw, ⟨_, rfl⟩ | ⟨st, later, hs, hk⟩⟩ := dspResume_next h
  · exact .holds _ .start hq
  · exact .returns _ _ (.send _ st later .start (.inr (.inr rfl))) hk fun op' fr cl q rx =>
      ⟨x, q, dspResume_answered (s := s.beside fr cl x q rx) hw hs, id⟩

theorem dspCmd_comes {op : Caller} {s t : State} (x : Time) (hq : s.seq = .dsp op .cmd)
    (h : dspCmd op s = .next t) : Comes (runBeside dspCmd s x) x op s t := by
  rcases dspCmd_next h with ⟨_, rfl⟩ | ⟨st, later, hs, ⟨hside, hk⟩ | ⟨hside, hk⟩⟩
  · exact .holds _ .start hq
  · refine (dspResume_comes x rfl hk).before (.goto _ (.sent st (.send _ st later .start (.inl rfl)))) id ?_
    exact fun op' fr cl q rx => ⟨.dsp op' .resume, dspCmd_answered_side (s := s.beside fr cl x q rx) hs hside⟩
  · exact .returns st _ (.mode .idle (.send _ st later .start (.inl rfl))) hk fun op' fr cl q rx =>
      ⟨x, q, dspCmd_answered_other (s := s.beside fr cl x q rx) hs hside, id⟩

/-- The window alone reads `T0`. -/
theorem dspHold_comes {op : Caller} {s t : State} (hq : s.seq = .dsp op .settle)
    (h : dspHold op s = .next t) : Comes (runBeside dspHold s s.t0) s.t0 op s t := by
  rcases dspHold_next h with ⟨_, rfl⟩ | ⟨early, late, later, ht, he, hl, hk⟩
  · exact .holds _ (.sample _ [] .start) hq
  · refine (dspCmd_comes s.t0 rfl hk).before (.goto _ (.sample _ later .start)) id ?_
    exact fun op' fr cl q rx => ⟨.dsp op' .cmd, dspHold_late (s := s.beside fr cl s.t0 q rx) ht he hl⟩

/-- A window that is entered samples `T0` before it reads it. -/
theorem dspSettle_comes {op : Caller} {s t : State} (x : Time) (hq : s.seq = .dsp op .settle)
    (h0 : s.work.t0Taken = false) (h : dspSettle op s = .next t) : Comes (runBeside dspSettle s x) x op s t := by
  rcases dspSettle_next h with ⟨h1, _⟩ | ⟨_, _, rfl⟩ | ⟨_, start, later, ht, hk⟩
  · rw [h0] at h1
    cases h1
  · exact .holds _ .start hq
  · refine (dspHold_comes (by exact hq) hk).before (.taken true (.t0 start (.sample [start] later .start))) (fun _ => rfl) ?_
    exact fun op' fr cl q rx => ⟨q, dspSettle_first (s := s.beside fr cl x q rx) h0 ht⟩

theorem dspStop_comes {op : Caller} {s t : State} (x : Time) (hq : s.seq = .dsp op .stop)
    (h : dspStop op s = .next t) : Comes (runBeside dspStop s x) x op s t := by
  rcases dspStop_next h with ⟨_, rfl⟩ | ⟨st, later, hs, ⟨rfl, hk⟩ | ⟨hst, hk⟩⟩
  · exact .holds _ .start hq
  · refine (dspSettle_comes x rfl rfl hk).before
      (.goto _ (.taken false (.stretch _ (.send _ .success later .start (.inr (.inl rfl)))))) id ?_
    exact fun op' fr cl q rx => ⟨.dsp op' .settle, dspStop_answered_success (s := s.beside fr cl x q rx) hs⟩
  · exact .returns st _ (.send _ st later .start (.inr (.inl rfl))) hk fun op' fr cl q rx =>
      ⟨x, q, dspStop_answered_failed (s := s.beside fr cl x q rx) hs hst, id⟩

/-- The state in which a case of `dispatch(c)` starts its moves: the registers of R94 and R99 written, and the word noted. -/
structure Begins (c : CmdWord) (s s' : State) : Prop where
  cmd : s'.work.cmd = c
  rx : s'.work.rx = s.work.rx
  lastCont : s'.lastCont = s.lastCont ∨ s'.lastCont = c
  readSide : SameReadSide s s'
  t0 : s'.t0 = s.t0
  log : s'.log = s.log

/-- A dispatch: one of the three cases begins, and comes to a hold or a return. -/
theorem dispatch_comes {op : Caller} {c : CmdWord} {s t : State} (x : Time) (h : dispatch op c s = .next t) :
    ∃ s', Begins c s s' ∧ Comes (runBeside (fun op' => dispatch op' c) s x) x op s' t := by
  rcases dispatchCase_cases s.cfg s.mode c with ⟨_, hm, hc⟩ | ⟨_, hm, hc, hf⟩ | ⟨_, hd⟩
  · rw [dispatch_enter_eq hm hc] at h
    refine ⟨_, ?_, (dspDirect_comes x rfl h).before .start id fun op' fr cl q rx => ?_⟩
    · exact ⟨rfl, rfl, .inr rfl, ⟨rfl, rfl, rfl, rfl, rfl⟩, rfl, rfl⟩
    · exact ⟨.dsp op' .direct, dispatch_enter_eq (s := s.beside fr cl x q rx) hm hc⟩
  · rw [dispatch_halt_eq hm hc hf] at h
    refine ⟨_, ?_, (dspStop_comes x rfl h).before .start id fun op' fr cl q rx => ?_⟩
    · exact ⟨rfl, rfl, .inl rfl, ⟨rfl, rfl, rfl, rfl, rfl⟩, rfl, rfl⟩
    · exact ⟨.dsp op' .stop, dispatch_halt_eq (s := s.beside fr cl x q rx) hm hc hf⟩
  · rw [dispatch_direct_eq hd] at h
    have hlast : (if isCont s.cfg c = true then c else s.lastCont) = s.lastCont ∨
        (if isCont s.cfg c = true then c else s.lastCont) = c := by
      cases isCont s.cfg c <;> simp
    refine ⟨_, ?_, (dspDirect_comes x rfl h).before .start id fun op' fr cl q rx => ?_⟩
    · exact ⟨rfl, rfl, hlast, ⟨rfl, rfl, rfl, rfl, rfl⟩, rfl, rfl⟩
    · exact ⟨.dsp op' .direct, dispatch_direct_eq (s := s.beside fr cl x q rx) hd⟩

/-! ## What a host's dispatch leaves unchanged -/

theorem dispatch_sameReadSide {c : CmdWord} {s t : State} (h : dispatch .dispatch c s = .next t) : SameReadSide s t := by
  obtain ⟨s', hbegins, hcomes⟩ := dispatch_comes s.t0 h
  cases hcomes with
  | holds p hcourse _ => exact hbegins.readSide.trans hcourse.sameReadSide
  | returns st u hcourse hdone _ =>
    have hreturn : SameReadSide u t := by
      rw [respond_next hdone]
      exact ⟨rfl, rfl, rfl, rfl, rfl⟩
    exact (hbegins.readSide.trans hcourse.sameReadSide).trans hreturn

/-- Settles O40: no move of a dispatch is on the read side, and neither is the host's response. -/
theorem dispatchLeavesTheReadSideAlone : Obligations.DispatchLeavesTheReadSideAlone := by
  unfold Obligations.DispatchLeavesTheReadSideAlone
  intro s t i c hd h
  have hside : SameReadSide s t := by
    rw [exec_of_dispatchedWord hd] at h
    by_cases hr : s.seq = .ready
    · rw [hostDispatch, accept_ready hr] at h
      have hsame := dispatch_sameReadSide h
      exact ⟨hsame.frame, hsame.cls, hsame.addr, hsame.cfg, hsame.bytesIn⟩
    · rw [hostDispatch, accept_busy hr] at h
      cases h
      exact ⟨rfl, rfl, rfl, rfl, rfl⟩
  exact ⟨hside.frame, hside.cls, hside.addr, hside.cfg, hside.bytesIn⟩

/-! ## The words a request sends (R43, R90) -/

theorem dispatch_sends {op : Caller} {c : CmdWord} {s t : State} (h : dispatch op c s = .next t) :
    Appends (Event.sends fun c' => c' = c ∨ c' = s.cfg.cmdStop ∨ c' = s.lastCont) s t := by
  obtain ⟨s', hbegins, hcomes⟩ := dispatch_comes s.t0 h
  have hcourse_sends : ∀ {u : State}, Course s' u →
      Appends (Event.sends fun c' => c' = c ∨ c' = s.cfg.cmdStop ∨ c' = s.lastCont) s u := by
    intro u hcourse
    refine (Appends.of_log_eq hbegins.log).trans (hcourse.sends.mono fun e => Event.sends_mono fun c' hc' => ?_)
    rw [hbegins.cmd, hbegins.readSide.cfg] at hc'
    rcases hc' with hc' | hc' | hc'
    · exact .inl hc'
    · exact .inr (.inl hc')
    · rcases hbegins.lastCont with hl | hl
      · exact .inr (.inr (hc'.trans hl))
      · exact .inl (hc'.trans hl)
  cases hcomes with
  | holds p hcourse _ => exact hcourse_sends hcourse
  | returns st u hcourse hdone _ =>
    exact (hcourse_sends hcourse).trans ((dispatchDone_assembles hdone).appends.mono fun _ => Event.sends_of_noWrite)

/-- The words a request of the instruction `i` may send in `s`. -/
def MaySend (s : State) (i : Instr) (c : CmdWord) : Prop :=
  c = s.cfg.cmdStop ∨ c = s.cfg.cmdFetch ∨ c = s.lastCont ∨ hostWord s.cfg i = some c

/-- The dispatch of the host's word or of the fetch word, from a state that differs from `s` in neither the configuration nor
LAST_CONT. -/
theorem dispatch_maySend {op : Caller} {c : CmdWord} {s s' t : State} {i : Instr}
    (hc : c = s.cfg.cmdFetch ∨ hostWord s.cfg i = some c) (h : dispatch op c s' = .next t) (hcfg : s'.cfg = s.cfg)
    (hlast : s'.lastCont = s.lastCont) (hlog : s'.log = s.log) : Appends (Event.sends (MaySend s i)) s t := by
  refine (Appends.of_log_eq hlog).trans ((dispatch_sends h).mono fun e => Event.sends_mono fun c' hc' => ?_)
  rw [hcfg, hlast] at hc'
  rcases hc' with rfl | hc' | hc'
  · exact .inr (hc.imp_right .inr)
  · exact .inl hc'
  · exact .inr (.inr (.inl hc'))

theorem exec_sends {s t : State} {i : Instr} (hr : s.seq = .ready) (h : exec i s = .next t) :
    Appends (Event.sends (MaySend s i)) s t := by
  rcases exec_ready (i := i) hr with ⟨convert, _, he⟩ | ⟨c, rfl, he⟩ | ⟨bits, _, he⟩ | ⟨c, hd, he⟩
  · rw [he] at h
    rcases rmStart_next h with ha | ⟨_, _, hd⟩
    · exact ha.appends.mono fun _ => Event.sends_of_noWrite
    · exact dispatch_maySend (.inl rfl) hd rfl rfl rfl
  · rw [he, rsStart_eq] at h
    exact dispatch_maySend (.inr rfl) h rfl rfl rfl
  · rw [he] at h
    cases h
  · rw [he] at h
    exact dispatch_maySend (.inr (hostWord_of_dispatchedWord hd)) h rfl rfl rfl

/-- Settles O56: a dispatch sends its word, the stop and LAST_CONT, and the word is the host's or the nested fetch's. -/
theorem onlyFourKindsOfWordAreSent : Obligations.OnlyFourKindsOfWordAreSent := by
  unfold Obligations.OnlyFourKindsOfWordAreSent
  intro s t i hr h
  obtain ⟨events, hlog, hsends⟩ := exec_sends hr h
  exact ⟨events, hlog, fun _ _ _ _ he => hsends _ he⟩

/-! ## READ_STATUS is DISPATCH and then the register read (R116) -/

theorem TransportStatus.code_inj {a b : TransportStatus} (h : a.code = b.code) : a = b := by
  have hcode := TransportStatus.ofCode_code a
  rw [h, TransportStatus.ofCode_code b] at hcode
  exact (Option.some.inj hcode).symm

/-- A host's dispatch that completes has returned a status; the same dispatch nested in a status read, whose frame starts as
`fr`, returns it to that read. -/
theorem dispatch_completes {c : CmdWord} {s t : State} (h : dispatch .dispatch c s = .next t) (ht : t.seq = .ready)
    (fr : Frame) :
    ∃ st u q, respond (.status st.code) u = .next t ∧ u.work.cmd = c ∧ SameReadSide s u ∧
      dispatch .readStatus c (s.beside fr s.cls s.t0 .rsDispatch []) =
        dispatchDone .readStatus st (u.beside fr s.cls u.t0 q []) := by
  obtain ⟨s', hbegins, hcomes⟩ := dispatch_comes s.t0 h
  cases hcomes with
  | holds p _ hq => rw [hq] at ht; cases ht
  | returns st u hcourse hdone hrun =>
    obtain ⟨x, q, hr, hx⟩ := hrun .readStatus fr s.cls .rsDispatch []
    rw [hx hbegins.t0.symm] at hr
    exact ⟨st, u, q, hdone, hcourse.cmd_eq.trans hbegins.cmd, hbegins.readSide.trans hcourse.sameReadSide, hr⟩

/-- A status read is a dispatch beside the frame it starts with. -/
theorem rsStart_beside (c : CmdWord) (s : State) :
    rsStart c s = dispatch .readStatus c (s.beside (regStart s.cfg s.frame) s.cls s.t0 .rsDispatch []) :=
  (rsStart_eq c s).trans
    (dispatch_start .readStatus c c .rsDispatch (s.beside (regStart s.cfg s.frame) s.cls s.t0 .rsDispatch []))

/-- Without bytes the value of a status read is two sentinel bytes (R120). -/
theorem field1_regStart (cfg : Config) (fr : Frame) : field1 (regStart cfg fr) = cfg.sentinel ++ cfg.sentinel := rfl

/-- Settles O47: the nested dispatch returns what the host's does, and the read follows its return. -/
theorem statusReadIsDispatchThenRead : Obligations.StatusReadIsDispatchThenRead := by
  unfold Obligations.StatusReadIsDispatchThenRead
  intro s t c code events hr h ht hlog
  rw [exec_dispatch_ready (i := .dispatch c) hr rfl] at h
  obtain ⟨st, u, q, hdone, hcmd, hside, hread⟩ := dispatch_completes h ht (regStart s.cfg s.frame)
  obtain rfl := respond_next hdone
  obtain ⟨rfl, hresponse⟩ := List.append_inj' hlog rfl
  obtain rfl : st.code = code := by simpa using hresponse
  have hrun : exec (.readStatus c) s =
      dispatchDone .readStatus st (u.beside (regStart s.cfg s.frame) s.cls u.t0 q []) :=
    (exec_readStatus_ready hr c).trans ((rsStart_beside c _).trans hread)
  have hcfg : u.cfg = s.cfg := hside.cfg
  have haddr : u.addr = s.addr := hside.addr
  have hbytes : u.bytesIn = s.bytesIn := hside.bytesIn
  refine ⟨?read, ?noRead⟩
  case read =>
    rintro ⟨hst, hword⟩ rx later hb hl
    obtain rfl := TransportStatus.code_inj hst
    have hb' : ((u.beside (regStart s.cfg s.frame) s.cls u.t0 q []).goto .rsRead).bytesIn = rx :: later :=
      hbytes.trans hb
    rw [hrun, dispatchDone_readStatus_read (by simpa [State.beside, hcfg, hcmd] using hword),
      rsRead_eq (fr := s.frame) (by simp [State.beside, hcfg]) hb' hl]
    simp [State.beside, State.goto, State.setWork, State.emit, hcfg, haddr]
  case noRead =>
    intro hno
    rw [hrun, dispatchDone_readStatus_done (by
        rintro ⟨rfl, hword⟩
        exact hno ⟨rfl, by simpa [State.beside, hcfg, hcmd] using hword⟩),
      rsDone_eq (fr := s.frame) (by simp [State.beside, hcfg])]
    simp [State.beside, State.goto, State.setWork, State.emit, hcfg, regFrame_nil, field1_regStart]

end Sys2Proof.Machine
end

section
/-! PROOFS. Scope: what FR, CLASS and T0 hold between requests (R18, R29): two READY states that differ in them alone answer
every request alike. -/

namespace Sys2Proof.Machine

/-- The outcome is `t`, but for FR, CLASS and T0. -/
def UpToResidue (o : Out) (t : State) : Prop := ∃ fr cl x, o = .next { t with frame := fr, cls := cl, t0 := x }

/-- What the frame buffer holds while a dispatch of this caller runs (R109, R116). -/
def FrameReady (cfg : Config) (fr : Frame) : Caller → Prop
  | .dispatch => True
  | .readMeas => fr = sentinelFrame cfg
  | .readStatus => ∃ fr₀, fr = regStart cfg fr₀

/-! ## The assembler -/

theorem mask_three_field1 {cfg : Config} {c : Classification} {fr fr' : Frame}
    (h1 : fr[1] = fr'[1]) (h2 : fr[2] = fr'[2]) : field1 (mask cfg 3 c fr) = field1 (mask cfg 3 c fr') := by
  cases c <;> simp [mask, field1, h1, h2]

/-- The register of a status read does not depend on the bytes beyond its frame. -/
theorem regFrame_field1 (cfg : Config) (rx : List Byte) (fr fr' : Frame) :
    field1 (regFrame cfg rx fr) = field1 (regFrame cfg rx fr') := by
  have hclass : regClass cfg rx fr = regClass cfg rx fr' := by
    simp [regClass, validateReg, firstOk, regStart]
  rw [regFrame, regFrame, hclass]
  exact mask_three_field1 (by simp [regStart]) (by simp [regStart])

section
variable {s t : State} (cl : Classification) (x : Time) (q : Seq)

theorem rmDone_upToResidue (hs : s.frame = sentinelFrame s.cfg) (h : rmDone s = .next t) :
    UpToResidue (rmDone (s.beside s.frame cl x q s.work.rx)) t := by
  rw [rmDone_eq hs] at h
  cases h
  exact ⟨_, _, x, rmDone_eq (s := s.beside s.frame cl x q s.work.rx) hs⟩

theorem rmReadWith_upToResidue {release : Bool} (hs : s.frame = sentinelFrame s.cfg)
    (h : rmReadWith release s = .next t) (ht : t.seq = .ready) :
    UpToResidue (rmReadWith release (s.beside s.frame cl x q s.work.rx)) t := by
  rcases rmRead_next h with ⟨_, rfl⟩ | ⟨rx, later, hb, hn, _⟩
  · cases ht
  · rw [rmReadWith, rmRead_eq (by exact hs) hb hn] at h
    cases h
    rw [rmReadWith]
    exact ⟨_, _, x, rmRead_eq (by exact hs) (by exact hb) hn⟩

theorem rsDone_upToResidue {fr₀ : Frame} (fr : Frame) (hs : s.frame = regStart s.cfg fr₀) (h : rsDone s = .next t) :
    UpToResidue (rsDone (s.beside (regStart s.cfg fr) cl x q s.work.rx)) t := by
  rw [rsDone_eq hs, regFrame_field1 s.cfg s.work.rx fr₀ fr] at h
  cases h
  exact ⟨_, _, x, rsDone_eq (s := s.beside (regStart s.cfg fr) cl x q s.work.rx) (fr := fr) rfl⟩

theorem rsRead_upToResidue {fr₀ : Frame} (fr : Frame) (hs : s.frame = regStart s.cfg fr₀) (hq : s.seq = .rsRead)
    (h : rsRead s = .next t) (ht : t.seq = .ready) :
    UpToResidue (rsRead (s.beside (regStart s.cfg fr) cl x q s.work.rx)) t := by
  rcases rsRead_next h with ⟨_, rfl⟩ | ⟨rx, later, hb, hn, _⟩
  · rw [hq] at ht
    cases ht
  · rw [rsRead_eq hs hb hn, regFrame_field1 s.cfg rx fr₀ fr] at h
    cases h
    exact ⟨_, _, x, rsRead_eq (s := s.beside (regStart s.cfg fr) cl x q s.work.rx) (fr := fr) rfl hb hn⟩

end

/-! ## The controller -/

theorem dispatchDone_upToResidue {op : Caller} {st : TransportStatus} {u t : State} {fr : Frame} (cl : Classification)
    (x : Time) (q : Seq) (hu : FrameReady u.cfg u.frame op) (hfr : FrameReady u.cfg fr op)
    (h : dispatchDone op st u = .next t) (ht : t.seq = .ready) :
    UpToResidue (dispatchDone op st (u.beside fr cl x q u.work.rx)) t := by
  rcases dispatchDone_next h with ⟨rfl, hk⟩ | ⟨rfl, rfl, hk⟩ | ⟨rfl, hst, hk⟩ | ⟨rfl, rfl, hread, hk⟩ | ⟨rfl, hst, hk⟩
  · cases hk
    exact ⟨fr, cl, x, rfl⟩
  · obtain rfl : fr = u.frame := hfr.trans hu.symm
    rw [dispatchDone_readMeas_success]
    exact rmReadWith_upToResidue cl x q hu hk ht
  · obtain rfl : fr = u.frame := hfr.trans hu.symm
    rw [dispatchDone_readMeas_failed hst]
    exact rmDone_upToResidue (s := u.goto .rmDone) cl x .rmDone hu hk
  · obtain ⟨fr₀, hu⟩ := hu
    obtain ⟨fr₁, rfl⟩ := hfr
    rw [dispatchDone_readStatus_read (by exact hread)]
    exact rsRead_upToResidue (s := u.goto .rsRead) cl x .rsRead fr₁ hu rfl hk ht
  · obtain ⟨fr₀, hu⟩ := hu
    obtain ⟨fr₁, rfl⟩ := hfr
    rw [dispatchDone_readStatus_done (by exact hst)]
    exact rsDone_upToResidue (s := u.goto .rsDone) cl x .rsDone fr₁ hu hk

theorem dispatch_upToResidue {op : Caller} {c : CmdWord} {s t : State} {fr : Frame} (cl : Classification) (x : Time)
    (hs : FrameReady s.cfg s.frame op) (hfr : FrameReady s.cfg fr op) (h : dispatch op c s = .next t)
    (ht : t.seq = .ready) : UpToResidue (dispatch op c { s with frame := fr, cls := cl, t0 := x }) t := by
  obtain ⟨s', hbegins, hcomes⟩ := dispatch_comes x h
  cases hcomes with
  | holds p _ hq => rw [hq] at ht; cases ht
  | returns st u hcourse hdone hrun =>
    obtain ⟨x', q', hr, _⟩ := hrun op fr cl s.seq s.work.rx
    have hside := hbegins.readSide.trans hcourse.sameReadSide
    have hrx : u.work.rx = s.work.rx := hcourse.rx_eq.trans hbegins.rx
    have hdone' := dispatchDone_upToResidue (fr := fr) cl x' q' (by rw [hside.cfg, hside.frame]; exact hs)
      (by rw [hside.cfg]; exact hfr) hdone ht
    rw [hrx, ← hr] at hdone'
    exact hdone'

/-! ## The reads, and an instruction -/

theorem rmStart_upToResidue {convert : Bool} {s t : State} (fr : Frame) (cl : Classification) (x : Time)
    (h : rmStart convert s = .next t) (ht : t.seq = .ready) :
    UpToResidue (rmStart convert { s with frame := fr, cls := cl, t0 := x }) t := by
  rw [rmStart_eq] at h ⊢
  rcases stretch_mode_cases s with hx | hx | ⟨hx, hm⟩ | ⟨hx, hm⟩
  · rw [rmPath_skip (by exact hx)] at h ⊢
    have hdone := rmDone_upToResidue cl x .rmDone (by rfl) h
    exact hdone
  · rw [rmPath_stretch (by exact hx)] at h ⊢
    have hread := rmReadWith_upToResidue cl x s.seq (by rfl) h ht
    exact hread
  · rw [rmPath_idle (by exact hx) (by exact hm)] at h ⊢
    have hread := rmReadWith_upToResidue cl x s.seq (by rfl) h ht
    exact hread
  · rw [rmPath_fetch (by exact hx) (by exact hm), rmFetch] at h ⊢
    have hfetch := dispatch_upToResidue (fr := sentinelFrame s.cfg) cl x (by rfl) (by rfl) h ht
    exact hfetch

theorem rsStart_upToResidue {c : CmdWord} {s t : State} (fr : Frame) (cl : Classification) (x : Time)
    (h : rsStart c s = .next t) (ht : t.seq = .ready) :
    UpToResidue (rsStart c { s with frame := fr, cls := cl, t0 := x }) t := by
  rw [rsStart_eq] at h ⊢
  have hdispatch := dispatch_upToResidue (fr := regStart s.cfg fr) cl x (by exact ⟨s.frame, rfl⟩) (by exact ⟨fr, rfl⟩) h ht
  exact hdispatch

/-- Settles O58: a read fills its frame before it reads it, a dispatch samples T0 before it reads it, and nothing reads CLASS. -/
theorem frameResidueIsNotObservable : Obligations.FrameResidueIsNotObservable := by
  unfold Obligations.FrameResidueIsNotObservable
  intro s t i fr cl x hr h ht
  have hr' : ({ s with frame := fr, cls := cl, t0 := x } : State).seq = .ready := hr
  rcases exec_ready (i := i) hr with ⟨convert, rfl, he⟩ | ⟨c, rfl, he⟩ | ⟨bits, _, he⟩ | ⟨c, hd, he⟩
  · rw [he] at h
    rw [exec_readMeas_ready hr']
    have hread := rmStart_upToResidue fr cl x h ht
    exact hread
  · rw [he] at h
    rw [exec_readStatus_ready hr']
    have hread := rsStart_upToResidue fr cl x h ht
    exact hread
  · rw [he] at h
    cases h
  · rw [he] at h
    rw [exec_dispatch_ready (c := c) hr' hd]
    have hdispatch := dispatch_upToResidue (fr := fr) cl x (by trivial) (by trivial) h ht
    exact hdispatch

end Sys2Proof.Machine
end

section
/-! PROOFS. Scope: each instruction run forward over the answers it meets: the dispatch in its three cases, the measurement read
on its paths, the status read; and what a request does with no answer, or with one outside the contract. -/

namespace Sys2Proof.Machine

/-! ## The host's dispatch, case by case (R94 to R99) -/

theorem respond_eq (w : ResponseWord) (s : State) :
    respond w s = .next { s with seq := .ready, work := Work.clear, log := s.log ++ [.response w] } := rfl

/-- Settles O32: case 1 writes its registers, sends once and responds. -/
theorem continuousWordFromIdleEnters : Obligations.ContinuousWordFromIdleEnters := by
  unfold Obligations.ContinuousWordFromIdleEnters
  intro s i c st later hd hr hm hc hs
  rw [exec_dispatch_ready hr hd, dispatch_enter_eq (by exact hm) (by exact hc), dspDirect_answered (by exact hs),
    dispatchDone_dispatch, respond_eq]
  simp [State.emit, State.setStatusIn, State.setRequests, sendEvent]

/-- Settles O33: case 3 writes its registers, sends once and responds. -/
theorem directDispatchSendsOnce : Obligations.DirectDispatchSendsOnce := by
  unfold Obligations.DirectDispatchSendsOnce
  intro s i c st later hd hr hcase hs
  rw [exec_dispatch_ready hr hd, dispatch_direct_answered (by exact hcase) (by exact hs), dispatchDone_dispatch, respond_eq]
  simp only [List.append_assoc, List.singleton_append]
  rfl

/-- Settles O34: a failed stop is the last send. -/
theorem failedStopAborts : Obligations.FailedStopAborts := by
  unfold Obligations.FailedStopAborts
  intro s i c st later hd hr hm hc hf hst hs
  rw [exec_dispatch_ready hr hd, dispatch_halt_eq (by exact hm) (by exact hc) (by exact hf),
    dspStop_answered_failed (by exact hs) hst, dispatchDone_dispatch, respond_eq]
  simp [State.emit, State.setStatusIn, State.setRequests, sendEvent]

/-- Settles O35: after the window any command but a side command is sent, and the block is Idle. -/
theorem leavingContinuousStopsSettlesAndSends : Obligations.LeavingContinuousStopsSettlesAndSends := by
  unfold Obligations.LeavingContinuousStopsSettlesAndSends
  intro s i c st later start late early rest hd hr hm hc hf hside hs ht he hl
  rw [exec_dispatch_ready hr hd, dispatch_to_command (by exact hm) (by exact hc) (by exact hf) (by exact hs) (by exact ht)
    (by exact he) (by exact hl), dspCmd_answered_other rfl (by exact hside), dispatchDone_dispatch, respond_eq]
  simp [State.emit, State.setStatusIn, State.setMode, State.setRequests, sendEvent]

/-- Settles O36: after the window a side command is sent, and then LAST_CONT. -/
theorem sideCommandIsFollowedByTheResume : Obligations.SideCommandIsFollowedByTheResume := by
  unfold Obligations.SideCommandIsFollowedByTheResume
  intro s i c st resumed later start late early rest hd hr hm hw hc hf hside hs ht he hl
  rw [exec_dispatch_ready hr hd, dispatch_to_command (by exact hm) (by exact hc) (by exact hf) (by exact hs) (by exact ht)
    (by exact he) (by exact hl), dspCmd_answered_side rfl (by exact hside), dspResume_answered (by exact hw) rfl,
    dispatchDone_dispatch, respond_eq]
  simp [State.emit, State.setStatusIn, State.setWork, State.goto, State.setRequests, sendEvent]

/-- Settles O37: the resume reads LAST_CONT before it sends. -/
theorem unwrittenLastContFaultsAtTheResume : Obligations.UnwrittenLastContFaultsAtTheResume := by
  unfold Obligations.UnwrittenLastContFaultsAtTheResume
  intro s i c st later start late early rest hword hr hm hw hc hf hside hs ht he hl
  obtain ⟨op, fr, w, q, hexec⟩ := exec_of_hostWord hword hr
  rw [hexec, dispatch_to_command (by exact hm) (by exact hc) (by exact hf) (by exact hs) (by exact ht)
    (by exact he) (by exact hl), dspCmd_answered_side rfl (by exact hside), dspResume_unwritten (by exact hw)]

/-! ## No answer: the block holds (R14, R142) -/

theorem dspSettle_no_sample {op : Caller} {s : State} (h : s.timeIn = []) : dspSettle op s = .next s := by
  cases h0 : s.work.t0Taken with
  | true =>
    rw [dspSettle_taken h0, dspHold_early (by simp [h]), h, List.map_nil, ← h]
    simp [State.emit, State.setTimeIn]
  | false => exact dspSettle_held h0 h

theorem step_window_no_sample {op : Caller} {s : State} (hq : s.seq = .dsp op .settle) (ht : s.timeIn = []) :
    step s = .next s := by
  rw [step_busy (by simp [hq]), resume_dspSettle hq, dspSettle_no_sample ht]

/-- Settles O11: each phase that waits answers its own state. -/
theorem nothingMovesWithoutInput : Obligations.NothingMovesWithoutInput := by
  unfold Obligations.NothingMovesWithoutInput
  intro s
  refine ⟨?noRequest, ?noStatus, ?noBytes, ?noSample⟩
  case noRequest =>
    intro hr hreq
    simp [step, hr, nextRequest, hreq]
  case noStatus =>
    rintro op (hq | hq | hq | ⟨hq, hw⟩) hs <;> rw [step_busy (by simp [hq])]
    · rw [resume_dspStop hq]
      exact send_andThen_held hs
    · rw [resume_dspCmd hq]
      exact send_andThen_held hs
    · rw [resume_dspDirect hq]
      exact send_andThen_held hs
    · rw [resume_dspResume hq, dspResume, readLastCont_written hw]
      exact send_andThen_held hs
  case noBytes =>
    rintro (hq | hq) hb <;> rw [step_busy (by simp [hq])]
    · rw [resume_rmRead hq, rmRead_held hb]
    · rw [resume_rsRead hq, rsRead_held hb]
  case noSample => exact fun op hq ht => step_window_no_sample hq ht

/-- A dispatch whose stop succeeds holds in its window while every sample is early (R98). -/
theorem dispatch_early {op : Caller} {c : CmdWord} {s : State} {codes : List (BitVec 3)} {start : Time}
    {early : List Time} (hm : s.mode = .continuous) (hc : isCont s.cfg c = false) (hf : isFetch s.cfg c = false)
    (hs : s.statusIn = TransportStatus.code .success :: codes) (ht : s.timeIn = start :: early)
    (he : ∀ e ∈ early, e - start < s.cfg.settleMs) :
    dispatch op c s = .next { s with
      stretch := stretchOf s.cfg c, t0 := start, seq := .dsp op .settle,
      work := { s.work with cmd := c, t0Taken := true }, statusIn := codes, timeIn := [],
      log := s.log ++ ([sendEvent s s.cfg.cmdStop .success, .now start] ++ early.map .now) } := by
  rw [dispatch_halt_eq hm hc hf, dspStop_answered_success (by exact hs), dspSettle_first rfl (by exact ht),
    dspHold_early fun e h => settled_false (he e h)]
  simp [State.goto, State.setWork, State.emit, State.setStatusIn, State.setStretch, State.setT0, State.setTimeIn, sendEvent]

/-- Settles O38: a window of early samples only holds, with every sample taken, and without another one it stays. -/
theorem settleWindowHoldsWhileSamplesAreEarly : Obligations.SettleWindowHoldsWhileSamplesAreEarly := by
  unfold Obligations.SettleWindowHoldsWhileSamplesAreEarly
  intro s i c later start early hd hr hm hc hf hs ht he
  rw [exec_dispatch_ready hr hd, dispatch_early (by exact hm) (by exact hc) (by exact hf) (by exact hs) (by exact ht)
    (by exact he)]
  refine ⟨_, rfl, rfl, rfl, rfl, hm, rfl, rfl, rfl, rfl, rfl, rfl, rfl, rfl, rfl, rfl, rfl, ?_⟩
  exact step_window_no_sample rfl rfl

/-! ## The measurement read (R109 to R114) -/

/-- A measurement read whose path is a bus read at once. -/
theorem rmReadWith_eq {release : Bool} {s : State} {rx : List Byte} {later : List (List Byte)}
    (h : s.frame = sentinelFrame s.cfg) (hb : s.bytesIn = rx :: later) (hl : rx.length ≤ 6) :
    rmReadWith release s = .next { s with
      frame := measFrame s.cfg rx, cls := measClass s.cfg rx, seq := .ready, work := Work.clear, bytesIn := later,
      log := s.log ++ [.read s.addr 6 release rx, .response (.meas (measWord s.cfg s.work.convert rx))] } := by
  rw [rmReadWith, rmRead_eq (by exact h) (by exact hb) hl]
  rfl

/-- Settles O41: the two paths without a fetch differ in the release flag. -/
theorem directMeasurementRead : Obligations.DirectMeasurementRead := by
  unfold Obligations.DirectMeasurementRead
  intro s convert rx later hr hpath hb hl
  rw [exec_readMeas_ready hr, rmStart_eq]
  rcases hpath with hx | ⟨hx, hm⟩
  · rw [rmPath_stretch (by exact hx), rmReadWith_eq rfl (by exact hb) hl]
    simp [State.setRequests, hx]
  · rw [rmPath_idle (by exact hx) (by exact hm), rmReadWith_eq rfl (by exact hb) hl]
    simp [State.setRequests, hx]

/-- Settles O42: the fetch is a dispatch on case 3, and its Success starts the read. -/
theorem fetchedMeasurementRead : Obligations.FetchedMeasurementRead := by
  unfold Obligations.FetchedMeasurementRead
  intro s convert codes rx later hr hx hm hs hb hl
  rw [exec_readMeas_ready hr, rmStart_fetch_eq (by exact hx) (by exact hm), dspDirect_answered (by exact hs),
    dispatchDone_readMeas_success, rmReadWith_eq rfl (by exact hb) hl]
  simp only [State.emit, List.append_assoc, List.singleton_append]
  rfl

/-- Without bytes both fields are sentinel bytes, and nothing is converted (R112, R114). -/
theorem measWord_nil {cfg : Config} (h : cfg.sentinel = 0xFF#8) (convert : Bool) :
    measWord cfg convert [] = 0xFFFFFFFF#32 := by
  obtain ⟨hclass, hframe⟩ := measFrame_nil cfg
  simp [measWord, hclass, hframe, field1, field2, sentinelFrame, h]

/-- Settles O43: the read is skipped, or the fetch fails, or the read of O41 or O42 has no bytes. -/
theorem measurementWithoutBytesIsAllInvalid : Obligations.MeasurementWithoutBytesIsAllInvalid := by
  unfold Obligations.MeasurementWithoutBytesIsAllInvalid
  intro s convert hr hsent
  obtain ⟨hclass, hframe⟩ := measFrame_nil s.cfg
  have hword := measWord_nil hsent convert
  refine ⟨?skipped, ?failed, ?direct, ?fetched⟩
  case skipped =>
    intro hx
    rw [exec_readMeas_ready hr, rmStart_eq, rmPath_skip (by exact hx), rmDone_eq rfl]
    simp [State.setRequests, State.goto, hclass, hframe, hword]
  case failed =>
    intro st codes hx hm hst hs
    rw [exec_readMeas_ready hr, rmStart_fetch_eq (by exact hx) (by exact hm), dspDirect_answered (by exact hs),
      dispatchDone_readMeas_failed hst, rmDone_eq rfl, ← hclass, ← hframe, ← hword]
    simp only [State.emit, State.goto, List.append_assoc, List.singleton_append]
    rfl
  case direct =>
    intro later hpath hb
    rw [directMeasurementRead s convert [] later hr hpath hb (by simp), hclass, hframe, hword]
  case fetched =>
    intro codes later hx hm hs hb
    rw [fetchedMeasurementRead s convert codes [] later hr hx hm hs hb (by simp), hclass, hframe, hword]

/-! ## The status read (R116 to R120) -/

/-- Settles O46: O33 says what the dispatch leaves, and O47 what the read makes of it. -/
theorem statusReadOnTheDirectPath : Obligations.StatusReadOnTheDirectPath := by
  unfold Obligations.StatusReadOnTheDirectPath
  intro s c st codes hr hcase hs
  have hdispatch := directDispatchSendsOnce s (.dispatch c) c st codes rfl hr hcase hs
  obtain ⟨hread, hnoRead⟩ := statusReadIsDispatchThenRead s _ c st.code (s.log ++ [sendEvent s c st]) hr hdispatch rfl
    (by simp)
  refine ⟨?read, ?noRead⟩
  case read =>
    rintro ⟨rfl, hc⟩ rx later hb hl
    rw [hread ⟨rfl, isStatusRead_iff.mpr hc⟩ rx later hb hl]
    simp
  case noRead =>
    intro hno
    rw [hnoRead fun ⟨hst, hc⟩ => hno ⟨TransportStatus.code_inj hst, isStatusRead_iff.mp hc⟩]
    simp

/-- Settles O48: O36 says what the dispatch leaves, its resume included, and O47 that the read comes after it. -/
theorem statusReadInContinuousReadsAfterTheResume : Obligations.StatusReadInContinuousReadsAfterTheResume := by
  unfold Obligations.StatusReadInContinuousReadsAfterTheResume
  intro s resumed codes rx later start late rest hr hm hw hc hf hs ht hl hb hn
  have hside : isSide s.cfg s.cfg.cmdStatusRead = true := isSide_iff.mpr (.inr (.inr (.inl rfl)))
  have hdispatch := sideCommandIsFollowedByTheResume s (.dispatch s.cfg.cmdStatusRead) s.cfg.cmdStatusRead .success resumed
    codes start late [] rest rfl hr hm hw hc hf hside hs ht (by simp) hl
  obtain ⟨hread, _⟩ := statusReadIsDispatchThenRead s _ s.cfg.cmdStatusRead (TransportStatus.code .success)
    (s.log ++ [sendEvent s s.cfg.cmdStop .success, .now start, .now late, sendEvent s s.cfg.cmdStatusRead .success,
      sendEvent s s.lastCont resumed]) hr hdispatch rfl (by simp)
  rw [hread ⟨rfl, isStatusRead_iff.mpr rfl⟩ rx later hb hn]
  simp

/-! ## An answer outside the contract is refused (R39) -/

/-- The first answer a dispatch meets is a status. -/
theorem dispatch_outside {op : Caller} {c : CmdWord} {s : State} {code : BitVec 3} {later : List (BitVec 3)}
    (hs : s.statusIn = code :: later) (hc : TransportStatus.ofCode code = none) :
    dispatch op c s = .refused .transportContract := by
  rcases dispatchCase_cases s.cfg s.mode c with ⟨_, hm, hcont⟩ | ⟨_, hm, hcont, hf⟩ | ⟨_, hd⟩
  · rw [dispatch_enter_eq hm hcont]
    exact send_andThen_outside (by exact hs) hc
  · rw [dispatch_halt_eq hm hcont hf]
    exact send_andThen_outside (by exact hs) hc
  · rw [dispatch_direct_eq hd]
    exact send_andThen_outside (by exact hs) hc

/-- Settles O13: in a phase that waits, and from READY at the first answer of a request or of a measurement's read. -/
theorem contractBreakersAreRefused : Obligations.ContractBreakersAreRefused := by
  unfold Obligations.ContractBreakersAreRefused
  refine ⟨?status, ?bytes, ?firstStatus, ?fetch, ?measurement⟩
  case status =>
    intro s op code later hq hs hcode
    have hc := ofCode_of_outside hcode
    rcases hq with hq | hq | hq | ⟨hq, hw⟩ <;> rw [step_busy (by simp [hq])]
    · rw [resume_dspStop hq]
      exact send_andThen_outside hs hc
    · rw [resume_dspCmd hq]
      exact send_andThen_outside hs hc
    · rw [resume_dspDirect hq]
      exact send_andThen_outside hs hc
    · rw [resume_dspResume hq, dspResume, readLastCont_written hw]
      exact send_andThen_outside hs hc
  case bytes =>
    rintro s rx later hb (⟨hq, hn⟩ | ⟨hq, hn⟩) <;> rw [step_busy (by simp [hq])]
    · rw [resume_rmRead hq, rmRead_outside hb hn]
    · rw [resume_rsRead hq, rsRead_outside hb hn]
  case firstStatus =>
    intro s i c code later hword hr hs hcode
    obtain ⟨op, fr, w, q, hexec⟩ := exec_of_hostWord hword hr
    rw [hexec, dispatch_outside (by exact hs) (ofCode_of_outside hcode)]
  case fetch =>
    intro s convert code later hr hx hm hs hcode
    rw [exec_readMeas_ready hr, rmStart_fetch_eq (by exact hx) (by exact hm)]
    exact send_andThen_outside (by exact hs) (ofCode_of_outside hcode)
  case measurement =>
    intro s convert rx later hr hpath hb hn
    rw [exec_readMeas_ready hr]
    rcases hpath with hx | ⟨hx, hm⟩ | ⟨hx, hm, codes, hs⟩
    · rw [rmStart_eq, rmPath_stretch (by exact hx)]
      exact rmRead_outside (by exact hb) hn
    · rw [rmStart_eq, rmPath_idle (by exact hx) (by exact hm)]
      exact rmRead_outside (by exact hb) hn
    · rw [rmStart_fetch_eq (by exact hx) (by exact hm), dspDirect_answered (by exact hs), dispatchDone_readMeas_success]
      exact rmRead_outside (by exact hb) hn

/-- A successful status read whose register read is too long is refused. -/
theorem dispatchDone_readStatus_outside {s : State} {rx : List Byte} {later : List (List Byte)}
    (hword : s.work.cmd = s.cfg.cmdStatusRead) (hb : s.bytesIn = rx :: later) (hn : 3 < rx.length) :
    dispatchDone .readStatus .success s = .refused .transportContract := by
  rw [dispatchDone_readStatus_read (isStatusRead_iff.mpr hword)]
  exact rsRead_outside hb hn

/-- Settles O59: the answer to the word, to the resume, and to the register read on both paths. -/
theorem contractBreakersInsideARequestAreRefused : Obligations.ContractBreakersInsideARequestAreRefused := by
  unfold Obligations.ContractBreakersInsideARequestAreRefused
  refine ⟨?statuses, ?reads⟩
  case statuses =>
    intro s i c start late early rest hword hr hm hc hf ht he hl
    obtain ⟨op, fr, w, q, hexec⟩ := exec_of_hostWord hword hr
    refine ⟨?word, ?resume⟩
    case word =>
      intro code later hcode hs
      rw [hexec, dispatch_to_command (by exact hm) (by exact hc) (by exact hf) (by exact hs) (by exact ht)
        (by exact he) (by exact hl)]
      exact send_andThen_outside rfl (ofCode_of_outside hcode)
    case resume =>
      intro st code later hcode hside hw hs
      rw [hexec, dispatch_to_command (by exact hm) (by exact hc) (by exact hf) (by exact hs) (by exact ht)
        (by exact he) (by exact hl), dspCmd_answered_side rfl (by exact hside), dspResume,
        readLastCont_written (by exact hw)]
      exact send_andThen_outside rfl (ofCode_of_outside hcode)
  case reads =>
    intro s codes rx later hr hb hn
    refine ⟨?direct, ?halt⟩
    case direct =>
      intro hcase hs
      rw [exec_readStatus_ready hr, rsStart_eq, dispatch_direct_answered (by exact hcase) (by exact hs)]
      exact dispatchDone_readStatus_outside rfl hb hn
    case halt =>
      intro resumed start late early rest hm hw hc hf hs ht he hl
      have hside : isSide s.cfg s.cfg.cmdStatusRead = true := isSide_iff.mpr (.inr (.inr (.inl rfl)))
      rw [exec_readStatus_ready hr, rsStart_eq, dispatch_to_command (by exact hm) (by exact hc) (by exact hf)
        (by exact hs) (by exact ht) (by exact he) (by exact hl), dspCmd_answered_side rfl (by exact hside),
        dspResume_answered (by exact hw) rfl]
      exact dispatchDone_readStatus_outside rfl hb hn

end Sys2Proof.Machine
end

section
/-! PROOFS. Scope: decoding and encoding as each other's inverse, the class of a command word, and the command rows and table
words as what the port runs. -/

namespace Sys2Proof

open Machine

/-! ## The classes of command words (R52, R54) -/

/-- The members of `CONT_SET` in index order. -/
def Config.contWords (cfg : Config) : List CmdWord :=
  [cfg.contSet[0], cfg.contSet[1], cfg.contSet[2], cfg.contSet[3], cfg.contSet[4], cfg.contSet[5]]

/-- The four side commands. -/
def Config.sideWords (cfg : Config) : List CmdWord :=
  [cfg.cmdHeaterEn, cfg.cmdHeaterDis, cfg.cmdStatusRead, cfg.cmdStatusClear]

theorem isCont_iff_mem {cfg : Config} {c : CmdWord} : isCont cfg c = true ↔ c ∈ cfg.contWords := by
  simp [isCont, Config.contWords, or_assoc]

theorem isSide_iff_mem {cfg : Config} {c : CmdWord} : isSide cfg c = true ↔ c ∈ cfg.sideWords := by
  simp [isSide, Config.sideWords, or_assoc]

theorem words_eq (cfg : Config) : cfg.words = cfg.contWords ++ cfg.cmdFetch :: cfg.cmdStop :: cfg.sideWords := rfl

/-- The class is that of the first test that holds, in the order of R54. -/
theorem classOf_cases (cfg : Config) (c : CmdWord) :
    (isCont cfg c = true ∧ classOf cfg c = .cont) ∨
    (isCont cfg c = false ∧ isFetch cfg c = true ∧ classOf cfg c = .fetch) ∨
    (isCont cfg c = false ∧ isFetch cfg c = false ∧ c = cfg.cmdStop ∧ classOf cfg c = .stop) ∨
    (isCont cfg c = false ∧ isFetch cfg c = false ∧ c ≠ cfg.cmdStop ∧ isSide cfg c = true ∧ classOf cfg c = .side) ∨
    (isCont cfg c = false ∧ isFetch cfg c = false ∧ c ≠ cfg.cmdStop ∧ isSide cfg c = false ∧ classOf cfg c = .other) := by
  unfold classOf
  cases isCont cfg c with
  | true => simp
  | false =>
    cases isFetch cfg c with
    | true => simp
    | false =>
      by_cases hstop : c = cfg.cmdStop
      · simp [hstop]
      · cases isSide cfg c <;> simp [hstop]

/-- The default class is that of the words outside the vocabulary (R63). -/
theorem classOf_eq_other_iff {cfg : Config} {c : CmdWord} : classOf cfg c = .other ↔ c ∉ cfg.words := by
  rw [words_eq, List.mem_append, List.mem_cons, List.mem_cons, ← isCont_iff_mem, ← isSide_iff_mem, ← isFetch_iff]
  rcases classOf_cases cfg c with ⟨hc, hk⟩ | ⟨hc, hf, hk⟩ | ⟨hc, hf, hs, hk⟩ | ⟨hc, hf, hs, hd, hk⟩ | ⟨hc, hf, hs, hd, hk⟩
  · simp [hk, hc]
  · simp [hk, hf]
  · simp [hk, ← hs]
  · simp [hk, hd]
  · simp [hk, hc, hf, hs, hd]

/-- Under WF1 a word passes at most one of the tests (R10). -/
theorem tests_exclusive {cfg : Config} {c : CmdWord} (hw : cfg.WF1) :
    (isCont cfg c = true → isFetch cfg c = false ∧ c ≠ cfg.cmdStop ∧ isSide cfg c = false) ∧
    (isFetch cfg c = true → c ≠ cfg.cmdStop ∧ isSide cfg c = false) ∧
    (c = cfg.cmdStop → isSide cfg c = false) := by
  rw [Config.WF1, words_eq, List.nodup_append] at hw
  obtain ⟨_, hrest, hcont⟩ := hw
  obtain ⟨hfetch, hrest⟩ := List.nodup_cons.mp hrest
  obtain ⟨hstop, _⟩ := List.nodup_cons.mp hrest
  rw [List.mem_cons, not_or] at hfetch
  simp only [Bool.eq_false_iff, ne_eq, isCont_iff_mem, isFetch_iff, isSide_iff_mem]
  refine ⟨fun hc => ?_, ?_, ?_⟩
  · have hne : ∀ b ∈ cfg.cmdFetch :: cfg.cmdStop :: cfg.sideWords, c ≠ b := hcont c hc
    exact ⟨hne _ (by simp), hne _ (by simp), fun hs => hne c (by simp [hs]) rfl⟩
  · rintro rfl
    exact hfetch
  · rintro rfl
    exact hstop

/-- Settles O5: the class is the first test that holds, and under WF1 no second one does. -/
theorem commandClassesExcludeEachOther : Obligations.CommandClassesExcludeEachOther := by
  unfold Obligations.CommandClassesExcludeEachOther
  intro cfg c hw
  obtain ⟨hcont, hfetch, hstop⟩ := tests_exclusive (c := c) hw
  rcases classOf_cases cfg c with ⟨hc, hk⟩ | ⟨hc, hf, hk⟩ | ⟨hc, hf, hs, hk⟩ | ⟨hc, hf, hs, hd, hk⟩ | ⟨hc, hf, hs, hd, hk⟩
  · simp [hk, hc, hcont hc]
  · simp [hk, hc, hf, hfetch hf]
  · simp [hk, hc, hf, hstop hs, ← hs]
  · simp [hk, hc, hf, hs, hd]
  · simp [hk, hc, hf, hs, hd]

/-! ## Decode after encode (R52, R55) -/

theorem row_word_mem {cfg : Config} {row : CmdWord × Instr} (h : row ∈ commandRows cfg) : row.1 ∈ cfg.words :=
  List.mem_map_of_mem (f := Prod.fst) h

theorem exists_row_of_mem {cfg : Config} {c : CmdWord} (h : c ∈ cfg.words) : ∃ row ∈ commandRows cfg, row.1 = c :=
  List.mem_map.mp (show c ∈ (commandRows cfg).map Prod.fst from h)

/-- The word of a command instruction decodes to it under WF1, the default row's if it is outside the vocabulary. -/
theorem decode_encode_command {cfg : Config} {i : Instr} {c : CmdWord} (hw : cfg.WF1) (hi : i.wf cfg = true)
    (h : encode cfg i = .command c) : decodeCommand cfg c = i := by
  by_cases ho : ∃ c', i = .other c'
  · obtain ⟨c', rfl⟩ := ho
    cases h
    have hout : c ∉ cfg.words := classOf_eq_other_iff.mp (by simpa [Instr.wf] using hi)
    exact decodeCommand_other fun row hrow heq => hout (heq ▸ row_word_mem hrow)
  · exact decodeCommand_row hw (mem_commandRows h fun c' hc' => ho ⟨c', hc'⟩)

/-- Settles O3: a request by its fields, a command by its row, the default row by its being no other. -/
theorem decodeOfEncodeIsTheInstruction : Obligations.DecodeOfEncodeIsTheInstruction := by
  unfold Obligations.DecodeOfEncodeIsTheInstruction
  intro cfg i hw hi
  cases i with
  | dispatch c => exact decodeRequest_dispatchWord c
  | readMeas cv => exact decodeRequest_readMeasWord cv
  | readStatus c => exact decodeRequest_readStatusWord c
  | reserved bits => exact decodeRequest_reservedWord bits
  | _ => exact congrArg Except.ok (decode_encode_command hw hi rfl)

/-! ## Encode after decode -/

theorem encode_row {cfg : Config} {row : CmdWord × Instr} (h : row ∈ commandRows cfg) :
    encode cfg row.2 = .command row.1 ∧ row.2.wf cfg = true := by
  simp only [commandRows, List.mem_cons, List.not_mem_nil, or_false] at h
  rcases h with rfl | rfl | rfl | rfl | rfl | rfl | rfl | rfl | rfl | rfl | rfl | rfl <;> exact ⟨rfl, rfl⟩

theorem encode_decodeCommand (cfg : Config) (c : CmdWord) :
    encode cfg (decodeCommand cfg c) = .command c ∧ (decodeCommand cfg c).wf cfg = true := by
  rcases decodeCommand_cases cfg c with hrow | ⟨hother, hnone⟩
  · exact encode_row hrow
  · rw [hother]
    refine ⟨rfl, beq_iff_eq.mpr (classOf_eq_other_iff.mpr fun hmem => ?_)⟩
    obtain ⟨row, hrow, heq⟩ := exists_row_of_mem hmem
    exact hnone row hrow heq

/-- A request word is encoded by the fields its operation uses: those it does not use are zero (R59). -/
theorem encode_decodeRequest (cfg : Config) {w : ReqWord} {i : Instr} (h : decodeRequest w = .ok i) :
    encode cfg i = .request w ∧ i.wf cfg = true := by
  have hfields := requestWord_fields w
  rcases reqOp_cases w with hop | hop | hop | hop
  · rw [decodeRequest_of_op_dispatch hop] at h
    split at h
    · cases h
    · rename_i hcv
      cases h
      rw [hop, Bool.eq_false_iff.mpr hcv] at hfields
      exact ⟨congrArg Encoded.request hfields, rfl⟩
  · rw [decodeRequest_of_op_readMeas hop] at h
    split at h
    · rename_i hcmd
      cases h
      rw [hop, hcmd] at hfields
      exact ⟨congrArg Encoded.request hfields, rfl⟩
    · cases h
  · rw [decodeRequest_of_op_readStatus hop] at h
    split at h
    · cases h
    · rename_i hcv
      cases h
      rw [hop, Bool.eq_false_iff.mpr hcv] at hfields
      exact ⟨congrArg Encoded.request hfields, rfl⟩
  · rw [decodeRequest_of_op_reserved hop] at h
    cases h
    exact ⟨congrArg Encoded.request (reservedWord_fields hop), rfl⟩

/-- Settles O4: a request word by its fields, a command word by the row it was found in. -/
theorem encodeOfDecodeIsTheWord : Obligations.EncodeOfDecodeIsTheWord := by
  unfold Obligations.EncodeOfDecodeIsTheWord
  intro cfg e i h
  cases e with
  | request w => exact encode_decodeRequest cfg h
  | command c =>
    cases h
    exact encode_decodeCommand cfg c

/-! ## What the port runs (R31, R66) -/

/-- Settles O6: the accepted word's instruction. -/
theorem stepRunsTheAcceptedRequest : Obligations.StepRunsTheAcceptedRequest := by
  unfold Obligations.StepRunsTheAcceptedRequest
  exact fun _ _ _ _ hr hreq hdec => step_of_decodeRequest_ok hr hreq hdec

/-- Settles O7: both sides are the host's dispatch of the word. -/
theorem dispatchIsItsCommandRow : Obligations.DispatchIsItsCommandRow := by
  unfold Obligations.DispatchIsItsCommandRow
  exact fun s c => (exec_of_dispatchedWord (dispatchedWord_decodeCommand s.cfg c)).symm

theorem decodeTableWord_eq_some {nbits w : Nat} {i : Instr} (h : decodeTableWord nbits w = some i) :
    ∃ e, tableWord nbits w = some e ∧ decode configEx e = .ok i := by
  unfold decodeTableWord at h
  split at h
  · cases h
  · rename_i e he
    split at h
    · rename_i i' hi
      cases h
      exact ⟨e, he, hi⟩
    · cases h

/-- A request placed first at the port is run as the instruction its word decodes to. -/
theorem step_presentFirst {w : ReqWord} {i : Instr} (s : State) (h : decodeRequest w = .ok i) :
    step (presentFirst w s) = exec i (presentFirst w s) :=
  step_of_decodeRequest_ok rfl rfl h

/-- Settles O8: a request word is presented as it is, a command word as the operand of a DISPATCH (O7). -/
theorem placedTableWordIsRun : Obligations.PlacedTableWordIsRun := by
  unfold Obligations.PlacedTableWordIsRun
  intro s nbits w i hcfg h
  obtain ⟨e, htable, hdec⟩ := decodeTableWord_eq_some h
  have hplaced : s.withFetchWord nbits w = presentFirst (hostRequestOf e) s := by
    rw [State.withFetchWord, placeTableWord, htable]
  rw [hplaced]
  cases e with
  | request w' => exact step_presentFirst s hdec
  | command c =>
    cases hdec
    have hrun := dispatchIsItsCommandRow (presentFirst (requestWord 0#2 false c) s) c
    rw [show (presentFirst (requestWord 0#2 false c) s).cfg = configEx from hcfg] at hrun
    exact (step_presentFirst s (decodeRequest_dispatchWord c)).trans hrun

end Sys2Proof
end

section
/-! PROOFS. Scope: the pure functions of the block: the code sets, the CRC engine and what it detects, the frame buffer and the
answers of invalid fields, conversion, elapsed time; and the source's example, run step by step. -/

namespace Sys2Proof.Machine

/-! ## The code sets (R60 to R62) -/

theorem Classification.ofCode_code (c : Classification) : Classification.ofCode c.code = c := by
  cases c <;> rfl

/-- Settles O19: the codes one by one, and each set read back. -/
theorem codeSetsAreTheSpecs : Obligations.CodeSetsAreTheSpecs := by
  unfold Obligations.CodeSetsAreTheSpecs
  exact ⟨⟨rfl, rfl, rfl, rfl, rfl, rfl⟩, TransportStatus.ofCode_code, rfl, rfl, ⟨rfl, rfl, rfl, rfl⟩,
    Classification.ofCode_code, ⟨rfl, rfl⟩, rfl, rfl, rfl, rfl⟩

/-! ## The checksum (R69) -/

theorem checksum_append (cfg : Config) (seq : List Byte) (b : Byte) :
    checksum cfg (seq ++ [b]) = crcUpdate cfg (checksum cfg seq) b :=
  List.foldl_append

/-- Settles O20: the checksum is the left fold of the table step. -/
theorem checksumTakesOneTableStepPerByte : Obligations.ChecksumTakesOneTableStepPerByte := by
  unfold Obligations.ChecksumTakesOneTableStepPerByte
  exact fun cfg => ⟨rfl, checksum_append cfg⟩

/-! ## What an injective table detects (R76) -/

/-- No two entries of the CRC table are equal. -/
def Config.InjectiveTable (cfg : Config) : Prop :=
  ∀ a b : Byte, cfg.crcTable[a.toNat] = cfg.crcTable[b.toNat] → a = b

section
variable {cfg : Config} (hinj : Config.InjectiveTable cfg)
include hinj

theorem crcUpdate_inj_byte {crc b b' : Byte} (h : crcUpdate cfg crc b = crcUpdate cfg crc b') : b = b' :=
  (BitVec.xor_right_inj crc).mp (hinj _ _ h)

theorem crcUpdate_inj_crc {crc crc' b : Byte} (h : crcUpdate cfg crc b = crcUpdate cfg crc' b) : crc = crc' :=
  (BitVec.xor_left_inj b).mp (hinj _ _ h)

theorem checksum_pair_inj_second {a b b' : Byte} (h : checksum cfg [a, b] = checksum cfg [a, b']) : b = b' :=
  crcUpdate_inj_byte hinj h

theorem checksum_pair_inj_first {a a' b : Byte} (h : checksum cfg [a, b] = checksum cfg [a', b]) : a = a' :=
  crcUpdate_inj_byte hinj (crcUpdate_inj_crc hinj h)

end

/-- A flipped bit changes the byte. -/
theorem flipBit_ne {b : Byte} {k : Nat} (hk : k < 8) : b ≠ flipBit b k := by
  intro h
  have hzero : 0#8 = 1#8 <<< k := (BitVec.xor_right_inj b).mp (by simpa [flipBit] using h)
  have hbit : (1#8 <<< k).getLsbD k = true := by simp [hk]
  rw [← hzero] at hbit
  simp at hbit

theorem flipAt_get (fr : Frame) (j : Fin 6) (k i : Nat) (hi : i < 6) :
    (flipAt fr j k)[i] = if j.val = i then flipBit fr[i] k else fr[i] := by
  rw [flipAt, Vector.getElem_set]
  split
  · rename_i h
    subst h
    rfl
  · rfl

/-- The three bytes of a field check, one of them with a bit flipped, no longer agree: in the checksum byte (R71). -/
theorem flipAt_first_detected {cfg : Config} (hinj : Config.InjectiveTable cfg) {fr : Frame} {j : Fin 6} {k : Nat}
    (h : firstOk cfg fr = true) (hj : j.val < 3) (hk : k < 8) : firstOk cfg (flipAt fr j k) = false := by
  refine Bool.eq_false_iff.mpr fun h' => ?_
  rw [firstOk_iff] at h h'
  simp only [flipAt_get] at h'
  have hcases : j.val = 0 ∨ j.val = 1 ∨ j.val = 2 := by omega
  rcases hcases with hj | hj | hj
  · simp only [hj] at h'
    exact flipBit_ne hk (h.symm.trans h')
  · simp only [hj] at h'
    exact flipBit_ne hk (checksum_pair_inj_second hinj (h.trans h'.symm))
  · simp only [hj] at h'
    exact flipBit_ne hk (checksum_pair_inj_first hinj (h.trans h'.symm))

theorem flipAt_second_detected {cfg : Config} (hinj : Config.InjectiveTable cfg) {fr : Frame} {j : Fin 6} {k : Nat}
    (h : secondOk cfg fr = true) (hj : 3 ≤ j.val) (hk : k < 8) : secondOk cfg (flipAt fr j k) = false := by
  refine Bool.eq_false_iff.mpr fun h' => ?_
  rw [secondOk_iff] at h h'
  simp only [flipAt_get] at h'
  have hcases : j.val = 3 ∨ j.val = 4 ∨ j.val = 5 := by omega
  rcases hcases with hj | hj | hj
  · simp only [hj] at h'
    exact flipBit_ne hk (h.symm.trans h')
  · simp only [hj] at h'
    exact flipBit_ne hk (checksum_pair_inj_second hinj (h.trans h'.symm))
  · simp only [hj] at h'
    exact flipBit_ne hk (checksum_pair_inj_first hinj (h.trans h'.symm))

/-- Settles O23: the checksum of a pair is injective in each byte. -/
theorem injectiveTableDetectsBitFlips : Obligations.InjectiveTableDetectsBitFlips := by
  unfold Obligations.InjectiveTableDetectsBitFlips
  exact fun cfg hinj => ⟨fun _ h => firstOk_iff.mpr h.symm, fun _ h => secondOk_iff.mpr h.symm,
    fun _ _ _ h hj hk => flipAt_first_detected hinj h hj hk, fun _ _ _ h hj hk => flipAt_second_detected hinj h hj hk⟩

/-! ## The table of EX is injective (R9) -/

/-- The polynomial is odd: the bit shifted out comes back as the lowest. -/
theorem crcBitStep_lsb (x : Byte) : (crcBitStep x).getLsbD 0 = x.msb := by
  unfold crcBitStep
  cases x.msb <;> simp

theorem crcBitStep_inj {x y : Byte} (h : crcBitStep x = crcBitStep y) : x = y := by
  have hmsb : x.msb = y.msb := by rw [← crcBitStep_lsb, h, crcBitStep_lsb]
  have hshift : x <<< 1 = y <<< 1 := by
    unfold crcBitStep at h
    rw [hmsb] at h
    cases hy : y.msb <;> simpa [hy] using h
  apply BitVec.eq_of_getLsbD_eq
  intro i hi
  by_cases h7 : i = 7
  · subst h7
    exact hmsb
  · have hbit := congrArg (fun v => v.getLsbD (i + 1)) hshift
    simpa [show i + 1 < 8 by omega, hi] using hbit

theorem crcEntry_inj {x y : Byte} (h : crcEntry x = crcEntry y) : x = y :=
  crcBitStep_inj (crcBitStep_inj (crcBitStep_inj (crcBitStep_inj (crcBitStep_inj (crcBitStep_inj (crcBitStep_inj
    (crcBitStep_inj h)))))))

theorem configEx_crcTable_get (a : Byte) : configEx.crcTable[a.toNat] = crcEntry a := by
  simp [configEx]

theorem configEx_injectiveTable : Config.InjectiveTable configEx := by
  intro a b h
  rw [configEx_crcTable_get, configEx_crcTable_get] at h
  exact crcEntry_inj h

/-- Settles O24: each bit step of the CRC is injective, so the table is, and O23 applies. -/
theorem exampleCrcDetectsBitFlips : Obligations.ExampleCrcDetectsBitFlips := by
  unfold Obligations.ExampleCrcDetectsBitFlips
  exact injectiveTableDetectsBitFlips configEx configEx_injectiveTable

/-! ## The frame buffer and the mask (R41, R42, R78, R82) -/

theorem place_get_dite (rx : List Byte) (fr : Frame) (j : Nat) (hj : j < 6) :
    (place rx fr)[j] = if h : j < rx.length then rx[j] else fr[j] := by
  rw [place_get]
  split
  · rename_i h
    exact List.getD_eq_getElem _ _ h
  · rename_i h
    exact List.getD_eq_default _ _ (Nat.not_lt.mp h)

/-- Settles O25: the placed bytes by index, and a field as its two bytes. -/
theorem receivedBytesFillFromIndexZero : Obligations.ReceivedBytesFillFromIndexZero := by
  unfold Obligations.ReceivedBytesFillFromIndexZero
  exact ⟨place_get_dite, fun _ => ⟨append_bytes_toNat _ _, append_bytes_toNat _ _⟩⟩

/-- Filling a filled range again changes nothing. -/
theorem fillSentinel_twice (cfg : Config) (first past : Nat) (fr : Frame) :
    fillSentinel cfg first past (fillSentinel cfg first past fr) = fillSentinel cfg first past fr := by
  ext j hj
  by_cases h : first ≤ j ∧ j < past <;> simp [h]

theorem mask_twice (cfg : Config) (len : Nat) (c : Classification) (fr : Frame) :
    mask cfg len c (mask cfg len c fr) = mask cfg len c fr := by
  cases c with
  | noneValid => exact fillSentinel_twice cfg 0 len fr
  | onlySecond => exact fillSentinel_twice cfg 0 3 fr
  | onlyFirst =>
    by_cases h : 3 < len
    · simpa [mask, h] using fillSentinel_twice cfg 3 6 fr
    · simp [mask, h]
  | allValid => rfl

/-- Settles O27: each class fills one range, or none. -/
theorem maskTwiceIsMaskOnce : Obligations.MaskTwiceIsMaskOnce := by
  unfold Obligations.MaskTwiceIsMaskOnce
  exact fun cfg len c fr => ⟨mask_twice cfg len c fr, mask_allValid cfg len fr⟩

/-! ## Invalid fields in a response (R79, R81, R112, R114) -/

theorem field1_mask_invalid {cfg : Config} {len : Nat} {c : Classification} (fr : Frame) (hlen : 3 ≤ len)
    (hc : c = .noneValid ∨ c = .onlySecond) : field1 (mask cfg len c fr) = cfg.sentinel ++ cfg.sentinel := by
  rcases hc with rfl | rfl
  · simp [field1, mask_noneValid_get, show 1 < len by omega, show 2 < len by omega]
  · simp [field1, mask_onlySecond_get]

theorem field2_mask_invalid {cfg : Config} {c : Classification} (fr : Frame)
    (hc : c = .noneValid ∨ c = .onlyFirst) : field2 (mask cfg 6 c fr) = cfg.sentinel ++ cfg.sentinel := by
  rcases hc with rfl | rfl
  · simp [field2, mask_noneValid_get]
  · simp [field2, mask_onlyFirst_get]

theorem measWord_humidity_invalid {cfg : Config} {rx : List Byte} (convert : Bool)
    (hc : measClass cfg rx = .noneValid ∨ measClass cfg rx = .onlySecond) :
    (measWord cfg convert rx).extractLsb' 16 16 = cfg.sentinel ++ cfg.sentinel := by
  have hraw : ¬ (convert = true ∧ (measClass cfg rx = .allValid ∨ measClass cfg rx = .onlyFirst)) := by
    rcases hc with hc | hc <;> simp [hc]
  rw [measWord, BitVec.extractLsb'_append_eq_left, if_neg hraw, measFrame, field1_mask_invalid _ (by decide) hc]

theorem measWord_temperature_invalid {cfg : Config} {rx : List Byte} (convert : Bool)
    (hc : measClass cfg rx = .noneValid ∨ measClass cfg rx = .onlyFirst) :
    (measWord cfg convert rx).extractLsb' 0 16 = cfg.sentinel ++ cfg.sentinel := by
  have hraw : ¬ (convert = true ∧ (measClass cfg rx = .allValid ∨ measClass cfg rx = .onlySecond)) := by
    rcases hc with hc | hc <;> simp [hc]
  rw [measWord, BitVec.extractLsb'_append_eq_right, if_neg hraw, measFrame, field2_mask_invalid _ hc]

/-- Settles O28: an invalid field is two sentinel bytes, and an invalid field is not converted. -/
theorem invalidFieldsAreAnsweredAsFFFF : Obligations.InvalidFieldsAreAnsweredAsFFFF := by
  unfold Obligations.InvalidFieldsAreAnsweredAsFFFF
  intro cfg convert rx fr hsent
  have hffff : cfg.sentinel ++ cfg.sentinel = 0xFFFF#16 := by rw [hsent]; rfl
  rw [← hffff]
  refine ⟨measWord_humidity_invalid convert, measWord_temperature_invalid convert, fun hc => ?_⟩
  rw [regFrame, field1_mask_invalid _ (by decide) (.inl hc)]

/-! ## Conversion (R115) -/

theorem convH_toNat (raw : Field) : (convH raw).toNat = 100 * raw.toNat / 65535 := by
  have hraw : raw.toNat < 65536 := raw.isLt
  rw [convH, BitVec.toNat_ofNat]
  omega

theorem convT_toInt (raw : Field) : (convT raw).toInt = ((175 * raw.toNat / 65535 : Nat) : Int) - 45 := by
  have hraw : raw.toNat < 65536 := raw.isLt
  rw [convT, BitVec.toInt_ofInt_eq_self (by decide)]
  · omega
  · omega

/-- Settles O29: the quotients are small enough for their 16 bits. -/
theorem conversionFormulasAndRanges : Obligations.ConversionFormulasAndRanges := by
  unfold Obligations.ConversionFormulasAndRanges
  intro raw
  have hraw : raw.toNat < 65536 := raw.isLt
  rw [convH_toNat, convT_toInt]
  refine ⟨rfl, ?_, rfl, ?_, ?_⟩ <;> omega

/-- Settles O30: 0xFFFF is the number -1, and the quotient is then 44. -/
theorem temperaturesThatCollideWithTheSentinel : Obligations.TemperaturesThatCollideWithTheSentinel := by
  unfold Obligations.TemperaturesThatCollideWithTheSentinel
  intro raw
  have hminus : (0xFFFF#16 : BitVec 16).toInt = -1 := by decide
  rw [← BitVec.toInt_inj, hminus, convT_toInt]
  omega

/-! ## Elapsed time (R98, R137) -/

/-- Settles O39: the difference of two time counts wraps at their width. -/
theorem elapsedTimeWrapsModulo : Obligations.ElapsedTimeWrapsModulo := by
  unfold Obligations.ElapsedTimeWrapsModulo
  intro cfg t0 now
  have hnow : now.toNat < 2 ^ 32 := now.isLt
  have ht0 : t0.toNat < 2 ^ 32 := t0.isLt
  rw [settled, decide_eq_true_iff, BitVec.le_def, BitVec.toNat_sub,
    show 2 ^ 32 - t0.toNat + now.toNat = now.toNat + 2 ^ 32 - t0.toNat by omega]

/-! ## The source's example (V-E1) -/

/-- The frame of two fields of 32768 with their checksums. -/
def exampleBytes : List Byte := [0xFB#8, 0x80#8, 0x00#8, 0xFB#8, 0x80#8, 0x00#8]

theorem exampleBytes_class : measClass configEx exampleBytes = .allValid := by decide +kernel

theorem exampleBytes_word : measWord configEx true exampleBytes = 0x0032002A#32 := by decide +kernel

/-- Reset with the example's two requests presented and their answers to come. -/
def exampleStart : State :=
  (State.reset.present [0x02130#19, 0x30000#19]).offer [0#3, 0#3] [exampleBytes] []

/-- The same after its first request. -/
def exampleContinuous : State :=
  { exampleStart with
    mode := .continuous, lastCont := 0x2130#16, lastContWritten := true, requests := [0x30000#19], statusIn := [0#3],
    log := [sendEvent exampleStart 0x2130#16 .success, .response (.status 0#3)] }

theorem step_exampleStart : step exampleStart = .next exampleContinuous :=
  (step_of_decodeRequest_ok rfl rfl (decodeRequest_dispatchWord 0x2130#16)).trans
    (continuousWordFromIdleEnters exampleStart (.dispatch 0x2130#16) 0x2130#16 .success [0#3] rfl rfl rfl (by decide) rfl)

theorem exampleContinuous_cfg : exampleContinuous.cfg = configEx := rfl

theorem configEx_fetch_not_cont : isCont configEx configEx.cmdFetch = false := by decide

/-- Settles O45: the first step is O32, the second is O42. -/
theorem sourceEndToEndExample : Obligations.SourceEndToEndExample := by
  unfold Obligations.SourceEndToEndExample
  have hread := (step_of_decodeRequest_ok rfl rfl (decodeRequest_readMeasWord true)).trans
    (fetchedMeasurementRead exampleContinuous true [] exampleBytes [] rfl rfl rfl rfl rfl (by decide))
  refine ⟨_, (run_of_next step_exampleStart).trans (run_of_next hread), rfl, ?stretch, ?lastCont, ?cls, ?response⟩
  case stretch => rw [exampleContinuous_cfg]; rfl
  case lastCont => rw [exampleContinuous_cfg, configEx_fetch_not_cont]; rfl
  case cls => rw [exampleContinuous_cfg, exampleBytes_class]
  case response => rw [exampleContinuous_cfg, exampleBytes_word]; simp

end Sys2Proof.Machine
end
